-- ==== Sys2Proof/Word.lean ====
section
/-! DEFINITION. The widths of the spec's words (00_scope.md R4, R5) and the names of the pin space (20_memory.md R31). -/

namespace Sys2Proof

/-- `WORD_W` = 25 (R4): the control word, the status word and the shift register. -/
abbrev Word25 := BitVec 25

/-- `CMD_W` = 28 (R4, R59): the host command word. -/
abbrev CmdWord := BitVec 28

/-- The four pins by role (R31): mono/stereo status, clock, data, write-enable. -/
inductive Pin where
  | most | clk | data | wren
deriving DecidableEq, Repr

/-- The direction argument of `PinDir` (R32). -/
inductive Dir where
  | inp | out
deriving DecidableEq, Repr

/-- The two delays of the block by name (R4, R43): `T_CLK` and `T_SETTLE`. -/
inductive DelayName where
  | tClk | tSettle
deriving DecidableEq, Repr

end Sys2Proof
end

