-- ==== Sys2Proof/Syntax.lean ====
section
/-! DEFINITION. The operand codes (30_encoding.md R61) and one constructor for each row of spec/opcode_table.json. -/

namespace Sys2Proof

/-- The `BAND` codes (R61): 0 FM, 1 AM; 2 and 3 are outside the enumeration. -/
inductive Band where
  | fm | am | outside2 | outside3
deriving DecidableEq, Repr

/-- The `LEVEL` codes (R61): 1 to 4; 0, 5, 6, 7 are outside the enumeration. -/
inductive Level where
  | outside0 | l1 | l2 | l3 | l4 | outside5 | outside6 | outside7
deriving DecidableEq, Repr

/-- The `DIR` codes (R61): 0 NONE, 1 UP, 2 DOWN; 3 is outside the enumeration. -/
inductive Direction where
  | none | up | down | outside3
deriving DecidableEq, Repr

/-- One constructor per row of spec/opcode_table.json. `ignored` holds the bits that rule R59 marks `-`: they have no effect,
but `CMDL` latches them with the rest of the word (R13), log 14. -/
inductive Instr where
  /-- `INIT` (R70). -/
  | init (ignored : BitVec 25)
  /-- `WRITE` (R81). -/
  | write (wdata : Word25)
  /-- `READ` (R83). -/
  | read (ignored : BitVec 25)
  /-- `PRESET` (R91). -/
  | preset (ignored : BitVec 7) (band : Band) (freq : BitVec 16)
  /-- `SEARCH` (R93). -/
  | search (ignored : BitVec 18) (dir : Direction) (level : Level) (band : Band)
  /-- `GETPLL` (R100). -/
  | getpll (ignored : BitVec 25)
  /-- `ISSTEREO` (R101). -/
  | isstereo (ignored : BitVec 25)
  /-- `RESERVED_OP7`: `OP` = `111` (R63, R114). -/
  | reservedOp7 (ignored : BitVec 25)
  /-- `CW25.PRESET_FM`: the word on the wire of a FM preset, fields `C` and `P` of R51. -/
  | cw25PresetFm (c : BitVec 3) (p : BitVec 17)
  /-- `CW25.PRESET_AM`: the word on the wire of an AM preset. -/
  | cw25PresetAm (c : BitVec 3) (p : BitVec 17)
  /-- `CW25.SEARCH`: the word on the wire of a search, fields `D`, `B`, `L`, `C` of R51. -/
  | cw25Search (d : BitVec 1) (b : BitVec 1) (l : BitVec 2) (c : BitVec 3)
  /-- `SW25.STATUS`: the word received from the device (R58). -/
  | sw25Status (ignored : BitVec 8) (p : BitVec 17)
deriving DecidableEq, Repr

end Sys2Proof
end

