-- ==== Sys2Proof/WellFormed.lean ====
section
/-! DEFINITION. Which terms of `Instr` stand for a word the spec gives a meaning or that the packer can put on the wire. -/

namespace Sys2Proof

/-- Field `P` of a FM preset word is `(FREQ + 107) * 8` for some `FREQ` (R62, table row CW25.PRESET_FM). -/
def isFmDivider (p : BitVec 17) : Bool := p.toNat % 8 == 0 && decide (856 ≤ p.toNat)

/-- Field `P` of an AM preset word is `(FREQ + 45) * 10` for some `FREQ` (R62, table row CW25.PRESET_AM). -/
def isAmDivider (p : BitVec 17) : Bool := p.toNat % 10 == 0 && decide (450 ≤ p.toNat)

/-- Three checks: `OP` = `111` has no meaning (R63); the divider of a preset word on the wire is one the packer's formula
gives (R62, R66). Every other value of every field is legal (R59, R61, R63, R92; SW25: "every value is legal"). -/
def Instr.wellFormed : Instr → Bool
  | .init _ => true
  | .write _ => true
  | .read _ => true
  | .preset _ _ _ => true
  | .search _ _ _ _ => true
  | .getpll _ => true
  | .isstereo _ => true
  | .reservedOp7 _ => false
  | .cw25PresetFm _ p => isFmDivider p
  | .cw25PresetAm _ p => isAmDivider p
  | .cw25Search _ _ _ _ => true
  | .sw25Status _ _ => true

end Sys2Proof
end

