-- ==== Sys2Proof/Decode.lean ====
section
/-! DEFINITION. The decoder and the encoder of the three word formats (30_encoding.md R50, R51, R58, R59, R61). The command
port is parallel and a wire word is a sequence of 25 levels: there are no bytes and no byte order (20_memory.md R36). -/

namespace Sys2Proof

/-- A word of one of the three formats (R50). -/
inductive FormatWord where
  | cmd28 (w : CmdWord)
  | cw25 (w : Word25)
  | sw25 (w : Word25)
deriving DecidableEq, Repr

/-- Why a word is no instruction of its format. -/
inductive DecodeError where
  /-- A bit is set above the width of the format (R50: one fixed length each). Safe: nothing runs. -/
  | wordTooWide
  /-- A control word of none of the table's three CW25 shapes (R63, R66): not producible under the nominal mask. Safe. -/
  | noControlWordShape
deriving DecidableEq, Repr

/-! ### Operand codes (R61) -/

def bandOfCode (c : BitVec 2) : Band :=
  match c.toNat with
  | 0 => .fm
  | 1 => .am
  | 2 => .outside2
  | _ => .outside3

def codeOfBand : Band → BitVec 2
  | .fm => 0
  | .am => 1
  | .outside2 => 2
  | .outside3 => 3

def levelOfCode (c : BitVec 3) : Level :=
  match c.toNat with
  | 0 => .outside0
  | 1 => .l1
  | 2 => .l2
  | 3 => .l3
  | 4 => .l4
  | 5 => .outside5
  | 6 => .outside6
  | _ => .outside7

def codeOfLevel : Level → BitVec 3
  | .outside0 => 0
  | .l1 => 1
  | .l2 => 2
  | .l3 => 3
  | .l4 => 4
  | .outside5 => 5
  | .outside6 => 6
  | .outside7 => 7

def directionOfCode (c : BitVec 2) : Direction :=
  match c.toNat with
  | 0 => .none
  | 1 => .up
  | 2 => .down
  | _ => .outside3

def codeOfDirection : Direction → BitVec 2
  | .none => 0
  | .up => 1
  | .down => 2
  | .outside3 => 3

/-! ### Encoder -/

/-- `CMD28` = `{OP, payload}` (R59). -/
def cmdWord (op : BitVec 3) (payload : BitVec 25) : CmdWord := op ++ payload

/-- Payload of `PRESET` (R59): 24:18 ignored, 17:16 `BAND`, 15:0 `FREQ`. -/
def presetPayload (ignored : BitVec 7) (band : Band) (freq : BitVec 16) : BitVec 25 :=
  ignored ++ codeOfBand band ++ freq

/-- Payload of `SEARCH` (R59): 24:7 ignored, 6:5 `DIR`, 4:2 `LEVEL`, 1:0 `BAND`. -/
def searchPayload (ignored : BitVec 18) (dir : Direction) (level : Level) (band : Band) : BitVec 25 :=
  ignored ++ codeOfDirection dir ++ codeOfLevel level ++ codeOfBand band

/-- `CW25` = `{S, D, B, L, C, P}` (R51). -/
def controlWord (s d b : BitVec 1) (l : BitVec 2) (c : BitVec 3) (p : BitVec 17) : Word25 :=
  s ++ d ++ b ++ l ++ c ++ p

/-- `SW25` = `{uninterpreted, P}` (R58). -/
def statusWord (ignored : BitVec 8) (p : BitVec 17) : Word25 := ignored ++ p

/-- The word of an instruction, in its format. -/
def encode : Instr → FormatWord
  | .init x => .cmd28 (cmdWord 0 x)
  | .write d => .cmd28 (cmdWord 1 d)
  | .read x => .cmd28 (cmdWord 2 x)
  | .preset x band freq => .cmd28 (cmdWord 3 (presetPayload x band freq))
  | .search x dir level band => .cmd28 (cmdWord 4 (searchPayload x dir level band))
  | .getpll x => .cmd28 (cmdWord 5 x)
  | .isstereo x => .cmd28 (cmdWord 6 x)
  | .reservedOp7 x => .cmd28 (cmdWord 7 x)
  | .cw25PresetFm c p => .cw25 (controlWord 0 0 0 0 c p)
  | .cw25PresetAm c p => .cw25 (controlWord 0 0 1 0 c p)
  | .cw25Search d b l c => .cw25 (controlWord 1 d b l c 0)
  | .sw25Status x p => .sw25 (statusWord x p)

/-! ### Decoder -/

/-- A command word; the decoder reads `OP` (27:25) and nothing else to select the command (R60). Every word decodes. -/
def decodeCmd28 (w : CmdWord) : Instr :=
  match (w.extractLsb' 25 3).toNat with
  | 0 => .init (w.extractLsb' 0 25)
  | 1 => .write (w.extractLsb' 0 25)
  | 2 => .read (w.extractLsb' 0 25)
  | 3 => .preset (w.extractLsb' 18 7) (bandOfCode (w.extractLsb' 16 2)) (w.extractLsb' 0 16)
  | 4 => .search (w.extractLsb' 7 18) (directionOfCode (w.extractLsb' 5 2)) (levelOfCode (w.extractLsb' 2 3))
      (bandOfCode (w.extractLsb' 0 2))
  | 5 => .getpll (w.extractLsb' 0 25)
  | 6 => .isstereo (w.extractLsb' 0 25)
  | _ => .reservedOp7 (w.extractLsb' 0 25)

/-- A control word (R51): the shapes of the table's three CW25 rows; anything else is rejected by name. -/
def decodeCw25 (w : Word25) : Except DecodeError Instr :=
  match (w.extractLsb' 20 5).toNat with
  | 0 => .ok (.cw25PresetFm (w.extractLsb' 17 3) (w.extractLsb' 0 17))
  | 4 => .ok (.cw25PresetAm (w.extractLsb' 17 3) (w.extractLsb' 0 17))
  | _ =>
    if w.extractLsb' 24 1 = 1 ∧ w.extractLsb' 0 17 = 0 then
      .ok (.cw25Search (w.extractLsb' 23 1) (w.extractLsb' 22 1) (w.extractLsb' 20 2) (w.extractLsb' 17 3))
    else .error .noControlWordShape

/-- A status word (R58): every value is legal. -/
def decodeSw25 (w : Word25) : Instr := .sw25Status (w.extractLsb' 17 8) (w.extractLsb' 0 17)

/-- The decoder: total on the words of the three formats. -/
def decode : FormatWord → Except DecodeError Instr
  | .cmd28 w => .ok (decodeCmd28 w)
  | .cw25 w => decodeCw25 w
  | .sw25 w => .ok (decodeSw25 w)

/-- A number read as a word of the format of `width` bits; a bit above the width is rejected by name. -/
def wordOfNat (width n : Nat) : Except DecodeError (BitVec width) :=
  if n < 2 ^ width then .ok (BitVec.ofNat width n) else .error .wordTooWide

/-- A 25-bit number with no direction known: a control word if it has one of the CW25 shapes, else a status word (log 16). -/
def decodeWire (w : Word25) : Instr :=
  match decodeCw25 w with
  | .ok i => i
  | .error _ => decodeSw25 w

/-- The instruction of an opcode-table word (the host's numbering is the spec's own, R5). 25 bits: a wire word; any other
size: a command word, whose bits 27:0 are the number's. `CW25`, `SW25` and `CMD28` words rounded up to whole bytes
have the same size; the block is given commands only, so such a word is read as a command (log 16). -/
def decodeTableWord (nbits w : Nat) : Option Instr :=
  if nbits = 25 then
    match wordOfNat 25 w with
    | .ok x => some (decodeWire x)
    | .error _ => none
  else
    match wordOfNat 28 w with
    | .ok x => some (decodeCmd28 x)
    | .error _ => none

end Sys2Proof
end

