-- ==== Sys2Proof/Config.lean ====
section
/-! DEFINITION. What the spec leaves to the instance of the block (OPEN parameters of 00_scope.md R4) and the free values.
Every `opaque` constant has no body: no proof can see its value. -/

namespace Sys2Proof

/-- The level table `LVL_CODE(2..4)` (R55, U15): a permutation of `01`, `10`, `11`, named by the codes of levels 2, 3, 4
in this order. `c123` is the spec's default (decision D8), which the model does not assume. -/
inductive LevelTable where
  | c123 | c132 | c213 | c231 | c312 | c321
deriving DecidableEq, Repr, Inhabited

/-- The pin assignment (R19): one identifier for each role; the spec gives the identifiers no width. -/
structure PinIds where
  most : Nat
  clk  : Nat
  data : Nat
  wren : Nat
deriving DecidableEq, Repr, Inhabited

/-- OPEN parameter `CONFIG_MASK` (R18, D7). Log 3. -/
opaque Config.configMask : Word25

/-- OPEN parameter `LVL_CODE` (R55, D8). Log 4. -/
opaque Config.levels : LevelTable

/-- The pin assignment (R19), set at construction. Log 5. -/
opaque Config.pinIds : PinIds

/-- OPEN parameter `T_SETTLE` in microseconds (D9). No rule depends on it. Log 18. -/
opaque Config.tSettleMicros : Nat

/-- FREE VALUE: the level the environment answers to the `n`-th `PinRd` for which it has placed no answer (R34, U3, U14).
Log 6. -/
opaque Config.freeLevel : Pin → Nat → Bool

/-- `T_CLK` = 5 microseconds, a minimum (R4, R71). -/
def Config.tClkMicros : Nat := 5

/-- The least number of microseconds a `Delay` lasts (R35). -/
def Config.delayMicros : DelayName → Nat
  | .tClk => Config.tClkMicros
  | .tSettle => Config.tSettleMicros

end Sys2Proof
end

