-- ==== Sys2Proof/Machine/State.lean ====
section
/-! DEFINITION. The state of the block (10_state.md R10), of its host port (30_encoding.md R59) and of the environment as
the block sees it (R21), as plain data; the reasons a step can stop; the state right after reset (R22). -/

namespace Sys2Proof.Machine

/-- One bit for each of the four pins (R17). -/
structure PinBits where
  most : Bool
  clk  : Bool
  data : Bool
  wren : Bool
deriving DecidableEq, Repr

/-- The constants of the instance (R18, R19, R55): no step writes them. In State so that a statement about every state is a
statement about every mask, level table and pin assignment. -/
structure Params where
  /-- `CONFIG_MASK`, 25 bits. -/
  configMask : Word25
  /-- `LVL_CODE`. -/
  levels : LevelTable
  /-- The pin assignment. No rule reads it. -/
  pinIds : PinIds
deriving DecidableEq, Repr

/-- The host port's inputs (R59) and the host's program: the commands it has still to present, oldest first (R8, R42;
log 10). -/
structure HostPort where
  rst : Bool
  cmd : CmdWord
  cmdValid : Bool
  program : List CmdWord
deriving DecidableEq, Repr

/-- The environment as the source of `PinRd` answers (R21, R34; log 6): the answers it has placed for the next reads of
`DATA` and of `MOST`, oldest first, and how many answers were taken as free values. -/
structure Env where
  dataIn : List Bool
  mostIn : List Bool
  freeReads : Nat
deriving DecidableEq, Repr

/-- One pin action with the value written or read (R6, R7). -/
inductive PinAction where
  | dir (p : Pin) (d : Dir)
  | wr (p : Pin) (l : Bool)
  | rd (p : Pin) (b : Bool)
  | delay (t : DelayName)
deriving DecidableEq, Repr

/-- Which of the two granularities of R14 (D19) a step has: a whole command, or one accept or one pin action. Log 9. -/
inductive Pace where
  | whole | single
deriving DecidableEq, Repr

structure State where
  /-- `SR`, the shift register (R11). -/
  sr : Word25
  /-- `RES`, the result register (R12). -/
  res : Word25
  /-- `CMDL`, the command latch (R13). -/
  cmdl : CmdWord
  /-- `UPC`, the step index (R14). -/
  upc : BitVec 7
  /-- `BUSY` (R15). -/
  busy : Bool
  /-- `CONFIGURED` (R16). -/
  configured : Bool
  /-- `OE[p]`: true = the block drives the line (R17). -/
  oe : PinBits
  /-- `O[p]`: the level last written (R17). -/
  o : PinBits
  /-- `CONFIG_MASK`, `LVL_CODE`, pin assignment (R18, R55, R19). -/
  params : Params
  /-- `RST`, `CMD`, `CMD_VALID` (R59) and the host's program. -/
  port : HostPort
  /-- Where `PinRd` answers come from (R34). -/
  env : Env
  /-- The trace so far, oldest action first (R7). An observation: no rule reads it. Log 8. -/
  trace : List PinAction
  /-- The model's granularity (R14). Log 9. -/
  pace : Pace
deriving DecidableEq, Repr

/-- Why the machine stops with a fault. -/
inductive Fault where
  /-- Raised by a step with `BUSY` = 1 when the command in `CMDL` has no action at `UPC`. R14: "`UPC` never exceeds 104 and
  never wraps"; no run from reset gets there. Safe. Log 17. -/
  | sequencerLost
deriving DecidableEq, Repr

/-- Why an instruction has no meaning in a state. -/
inductive Refusal where
  /-- Raised by `exec` for an instruction without a meaning: none is left. Safe. -/
  | notModelled (mnemonic : String)
  /-- A command or transfer asked for while `BUSY` = 1 (R114, D14, U12). Raised by every meaning but RESERVED_OP7's. Safe. -/
  | busy
  /-- Any command but `INIT` while `CONFIGURED` = 0 (R114, D13, U11). Raised by every meaning but INIT's and RESERVED_OP7's.
  Safe. -/
  | notConfigured
  /-- `OP` = `111` (R63, R114, D15, U10). Raised by RESERVED_OP7's meaning. Safe. -/
  | reservedOp
deriving DecidableEq, Repr

/-- All pins at 0. -/
def PinBits.zero : PinBits := ⟨false, false, false, false⟩

/-- The state right after reset, `RST` fallen again (R22, R130): `BUSY`, `CONFIGURED`, `UPC` and every `OE` 0. `SR`, `RES`,
`CMDL` and the `O` latches are unspecified in R22: DESIGN CHOICE 0 (logs 1 and 2; unsafe, no statement may rest on them).
The constants are the opaque parameters (logs 3, 4, 5). Nothing is presented, placed or observed yet (logs 6, 8, 9, 10). -/
def State.reset : State where
  sr := 0
  res := 0
  cmdl := 0
  upc := 0
  busy := false
  configured := false
  oe := PinBits.zero
  o := PinBits.zero
  params := ⟨Config.configMask, Config.levels, Config.pinIds⟩
  port := ⟨false, 0, false, []⟩
  env := ⟨[], [], 0⟩
  trace := []
  pace := .whole

end Sys2Proof.Machine
end

