-- ==== Sys2Proof/Machine/Operands.lean ====
section
/-! DEFINITION. How each operand becomes bits of a word (30_encoding.md R55, R62) and the packer (42_packer.md R90, R92): pure
functions of the operands, `CONFIG_MASK` and `LVL_CODE` (20_memory.md R44). -/

namespace Sys2Proof.Machine

/-- `SEARCH_BIT`, bit 24 (R4). -/
def searchBit : Word25 := 0x1000000

/-- `DIR_BIT`, bit 23 (R4). -/
def dirBit : Word25 := 0x0800000

/-- `AM_BIT`, bit 22 (R4). -/
def amBit : Word25 := 0x0400000

/-- `FM_BITS` = 0: no bit (R4, conflict C3). -/
def fmBits : Word25 := 0

/-- `STATUS_MASK` = 2^17 - 1 (R4, conflict C1: 17 ones, not 15). -/
def statusMask : Word25 := 0x001FFFF

/-- `DIV_FM(f) = (f + 107) * 8` (R62), exact. -/
def divFm (f : BitVec 16) : Nat := (f.toNat + 107) * 8

/-- `DIV_AM(f) = (f + 45) * 10` (R62), exact. -/
def divAm (f : BitVec 16) : Nat := (f.toNat + 45) * 10

/-- `LVL_CODE` of levels 1 to 4 (R55) and `00` for every other code (R62, R63). -/
def levelCode (t : LevelTable) (l : Level) : BitVec 2 :=
  match t, l with
  | .c123, .l2 => 1
  | .c123, .l3 => 2
  | .c123, .l4 => 3
  | .c132, .l2 => 1
  | .c132, .l3 => 3
  | .c132, .l4 => 2
  | .c213, .l2 => 2
  | .c213, .l3 => 1
  | .c213, .l4 => 3
  | .c231, .l2 => 2
  | .c231, .l3 => 3
  | .c231, .l4 => 1
  | .c312, .l2 => 3
  | .c312, .l3 => 1
  | .c312, .l4 => 2
  | .c321, .l2 => 3
  | .c321, .l3 => 2
  | .c321, .l4 => 1
  | _, _ => 0

/-- The level field of a search word, `LVL_CODE(level) << 20` (R92; `LVL_SHIFT` of R4). -/
def levelBits (t : LevelTable) (l : Level) : Word25 := (levelCode t l).setWidth 25 <<< 20

/-- The band bit of a search word: only AM sets it; every other code is FM (R62, R63). -/
def searchBandBits : Band → Word25
  | .am => amBit
  | _ => 0

/-- The direction bit of a search word: only UP sets it (R53, R62). -/
def directionBits : Direction → Word25
  | .up => dirBit
  | _ => 0

/-- `PACK_PRESET` (R90): base word OR mask, PLUS the exact divider, reduced mod 2^25 once at the end; no word for a band
outside the enumeration. -/
def packPreset (mask : Word25) (f : BitVec 16) (band : Band) : Option Word25 :=
  match band with
  | .fm => some (BitVec.ofNat 25 ((fmBits ||| mask).toNat + divFm f))
  | .am => some (BitVec.ofNat 25 ((amBit ||| mask).toNat + divAm f))
  | _ => none

/-- `PACK_SEARCH` (R92): every term is OR'ed; total. -/
def packSearch (t : LevelTable) (mask : Word25) (band : Band) (level : Level) (dir : Direction) : Word25 :=
  searchBit ||| mask ||| searchBandBits band ||| levelBits t level ||| directionBits dir

/-- The bits of a word in wire order, bit 24 first (R36). -/
def bitsOfWord (w : Word25) : List Bool := (List.range 25).map fun k => w.getLsbD (24 - k)

/-- `SR` after the samples `bits`, the first one leftmost: shift left, insert at bit 0 (R36, R82). -/
def wordOfBits (bits : List Bool) : Word25 :=
  bits.foldl (fun w b => (w <<< 1) ||| (BitVec.ofBool b).setWidth 25) 0

end Sys2Proof.Machine
end

