-- ==== Sys2Proof/Machine/Ops.lean ====
section
/-! DEFINITION. The named operations: register writes, the four pin primitives (20_memory.md R32 to R35), the actions of an
action list and the sequencer (10_state.md R14, R15).

There is no exception entry and no return from one to model: "there is no trap entry: no state is saved, no mode changes, no
vector or handler exists" (60_exceptions.md R117, R118). There is no memory (20_memory.md R30). -/

namespace Sys2Proof.Machine

/-! ### One pin's bit -/

def PinBits.get (b : PinBits) : Pin → Bool
  | .most => b.most
  | .clk => b.clk
  | .data => b.data
  | .wren => b.wren

def PinBits.set (b : PinBits) (p : Pin) (v : Bool) : PinBits :=
  match p with
  | .most => { b with most := v }
  | .clk => { b with clk := v }
  | .data => { b with data := v }
  | .wren => { b with wren := v }

/-! ### Register writes `X <- v` (R6) -/

def State.setSr (s : State) (v : Word25) : State := { s with sr := v }
def State.setRes (s : State) (v : Word25) : State := { s with res := v }
def State.setCmdl (s : State) (v : CmdWord) : State := { s with cmdl := v }
def State.setUpc (s : State) (v : BitVec 7) : State := { s with upc := v }
def State.setBusy (s : State) (v : Bool) : State := { s with busy := v }
def State.setConfigured (s : State) (v : Bool) : State := { s with configured := v }
def State.setOe (s : State) (p : Pin) (v : Bool) : State := { s with oe := s.oe.set p v }
def State.setO (s : State) (p : Pin) (v : Bool) : State := { s with o := s.o.set p v }
def State.setPort (s : State) (v : HostPort) : State := { s with port := v }
def State.setEnv (s : State) (v : Env) : State := { s with env := v }

/-- Record one pin action (R7, R35: "a model records the action in the trace"). -/
def State.emit (s : State) (a : PinAction) : State := { s with trace := s.trace ++ [a] }

/-! ### Lines and the environment's answers -/

/-- What the block drives on a line: `O[p]` when `OE[p]` = 1, else nothing (R17). -/
def driven (s : State) (p : Pin) : Option Bool := if s.oe.get p then some (s.o.get p) else none

/-- The environment's next answer on an undriven line: the oldest one it has placed, else a free value (R34; log 6). -/
def Env.answer (e : Env) (p : Pin) : Bool × Env :=
  match p with
  | .data =>
    match e.dataIn with
    | b :: rest => (b, { e with dataIn := rest })
    | [] => (Config.freeLevel .data e.freeReads, { e with freeReads := e.freeReads + 1 })
  | .most =>
    match e.mostIn with
    | b :: rest => (b, { e with mostIn := rest })
    | [] => (Config.freeLevel .most e.freeReads, { e with freeReads := e.freeReads + 1 })
  | p => (Config.freeLevel p e.freeReads, { e with freeReads := e.freeReads + 1 })

/-- The next `n` answers on `p`, first one first, and the environment after them. -/
def Env.answers (p : Pin) : Nat → Env → List Bool × Env
  | 0, e => ([], e)
  | n + 1, e =>
    let a := e.answer p
    let rest := Env.answers p n a.2
    (a.1 :: rest.1, rest.2)

/-- The present level of the line of `p` and the environment after the read (R34): the level the block drives, if it
drives the line (R17; DEDUCED, log 7), else the environment's answer. -/
def sampleLine (s : State) (p : Pin) : Bool × Env :=
  match driven s p with
  | some l => (l, s.env)
  | none => s.env.answer p

/-! ### The four pin primitives -/

/-- `PinDir(p, d)` (R32). -/
def pinDir (p : Pin) (d : Dir) (s : State) : State := (s.setOe p (decide (d = .out))).emit (.dir p d)

/-- `PinWr(p, l)` (R33). -/
def pinWr (p : Pin) (l : Bool) (s : State) : State := (s.setO p l).emit (.wr p l)

/-- `b <- PinRd(p)` (R34). Changes no register of the block. -/
def pinRd (p : Pin) (s : State) : Bool × State :=
  let a := sampleLine s p
  (a.1, (s.setEnv a.2).emit (.rd p a.1))

/-- `Delay(t)` (R35): nothing but the record; the model carries no time (log 18). -/
def pinDelay (t : DelayName) (s : State) : State := s.emit (.delay t)

/-! ### The shift register (R11) -/

/-- `SR <- (SR << 1) mod 2^25`. -/
def shiftSr (s : State) : State := s.setSr (s.sr <<< 1)

/-- `SR <- SR | zext_25(b)`. -/
def insertSr (b : Bool) (s : State) : State := s.setSr (s.sr ||| (BitVec.ofBool b).setWidth 25)

/-! ### Actions -/

/-- The pin operation of an action. -/
inductive PinOp where
  /-- `PinDir(p, d)`. -/
  | dir (p : Pin) (d : Dir)
  /-- `PinWr(p, l)`. -/
  | wr (p : Pin) (l : Bool)
  /-- `PinWr(DATA, SR[24])` (R80). -/
  | wrSr
  /-- `b <- PinRd(DATA); SR <- zext_25(b)` (R82 action 5). -/
  | rdFirst
  /-- `b <- PinRd(DATA); SR <- SR | zext_25(b)` (R82 actions 9+4j). -/
  | rdNext
  /-- `b <- PinRd(MOST); RES <- zext_25(1 - b)` (R101). -/
  | rdMost
  /-- `Delay(t)`. -/
  | delay (t : DelayName)
deriving DecidableEq, Repr

/-- One entry of an action list: the pin operation, and whether the rule attaches a left shift of `SR` before or after it
(R14: "one pin action per step, register updates attached to the action the rule names"). -/
structure Action where
  shiftBefore : Bool
  op : PinOp
  shiftAfter : Bool
deriving DecidableEq, Repr

/-- An action with no shift. -/
def plain (op : PinOp) : Action := ⟨false, op, false⟩

def runOp : PinOp → State → State
  | .dir p d, s => pinDir p d s
  | .wr p l, s => pinWr p l s
  | .wrSr, s => pinWr .data (s.sr.getLsbD 24) s
  | .rdFirst, s =>
    let a := pinRd .data s
    a.2.setSr ((BitVec.ofBool a.1).setWidth 25)
  | .rdNext, s =>
    let a := pinRd .data s
    insertSr a.1 a.2
  | .rdMost, s =>
    let a := pinRd .most s
    a.2.setRes ((BitVec.ofBool (!a.1)).setWidth 25)
  | .delay t, s => pinDelay t s

def shiftIf (b : Bool) (s : State) : State := if b then shiftSr s else s

def runAction (a : Action) (s : State) : State := shiftIf a.shiftAfter (runOp a.op (shiftIf a.shiftBefore s))

/-- A list of actions, in order, none added, dropped or merged (R7, R42). -/
def runActions : List Action → State → State
  | [], s => s
  | a :: rest, s => runActions rest (runAction a s)

/-! ### Action lists -/

/-- `INIT` (R70), 7 actions; the order is the spec's decision D11. -/
def initActions : List Action :=
  [plain (.dir .most .inp), plain (.dir .clk .out), plain (.wr .clk false), plain (.dir .data .inp),
   plain (.wr .data true), plain (.dir .wren .out), plain (.wr .wren false)]

/-- `CLKPULSE` (R71), 3 actions; `before` and `after` say where the surrounding rule attaches its shift of `SR`. -/
def clkPulse (before after : Bool) : List Action :=
  [⟨before, .wr .clk true, false⟩, plain (.delay .tClk), ⟨false, .wr .clk false, after⟩]

/-- One bit of a transmit: actions 2+4i to 5+4i of R80. -/
def txBit : List Action := plain .wrSr :: clkPulse false true

/-- `TX25` (R80), 105 actions. -/
def tx25 : List Action :=
  [plain (.wr .wren true), plain (.dir .data .out)] ++ (List.replicate 25 txBit).flatten ++
  [plain (.dir .data .inp), plain (.wr .data true), plain (.wr .wren false)]

/-- One further bit of a receive: actions 6+4j to 9+4j of R82. -/
def rxBit : List Action := clkPulse true false ++ [plain .rdNext]

/-- `RX25` (R82), 102 actions; the place of the settling delays is the spec's decision D10. -/
def rx25 : List Action :=
  [plain (.delay .tSettle), plain (.wr .wren true), plain (.delay .tSettle), plain (.wr .wren false),
   plain (.delay .tSettle), plain .rdFirst] ++ (List.replicate 24 rxBit).flatten

/-- `ISSTEREO` (R101), 1 action. -/
def stereoActions : List Action := [plain .rdMost]

/-! ### The sequencer -/

/-- The final writes of a command besides `BUSY <- 0` (R12, R14, R16). -/
inductive Final where
  | nothing
  /-- `CONFIGURED <- 1` (R70). -/
  | setConfigured
  /-- `RES <- SR` (R83). -/
  | resFromSr
  /-- `RES <- SR & STATUS_MASK` (R100). -/
  | resFromSrMasked
deriving DecidableEq, Repr

def runFinal : Final → State → State
  | .nothing, s => s
  | .setConfigured, s => s.setConfigured true
  | .resFromSr, s => s.setRes s.sr
  | .resFromSrMasked, s => s.setRes (s.sr &&& statusMask)

/-- What a command does: the value loaded into `SR` at accept, if any (R15), its action list and its final writes. -/
structure Plan where
  load : Option Word25
  acts : List Action
  final : Final
deriving DecidableEq, Repr

/-- The load of `SR` at accept (R15). -/
def loadSr : Option Word25 → State → State
  | some w, s => s.setSr w
  | none, s => s

/-- Accept without the latch (R15): an empty list changes nothing; else `SR` is loaded, `UPC <- 0`, `BUSY <- 1`. -/
def startPlan (pl : Plan) (s : State) : State :=
  if pl.acts = [] then s else ((loadSr pl.load s).setUpc 0).setBusy true

/-- The end of the last step (R14): the final writes and `BUSY <- 0`. -/
def finishPlan (pl : Plan) (s : State) : State := (runFinal pl.final s).setBusy false

/-- Start, run the whole list and finish, as one big step (R14, D19). `UPC` counts up by one at each action but the last
(log 15). -/
def runPlan (pl : Plan) (s : State) : State :=
  if pl.acts = [] then s
  else finishPlan pl ((runActions pl.acts (startPlan pl s)).setUpc (BitVec.ofNat 7 (pl.acts.length - 1)))

/-- One step of a running plan (R14): the action at `UPC`; after the last one the final writes and `BUSY <- 0`, else
`UPC <- UPC + 1`. No action at `UPC`: a fault (log 17). -/
def stepPlan (pl : Plan) (s : State) : Host.Outcome State Fault Refusal :=
  match pl.acts[s.upc.toNat]? with
  | some a =>
    let t := runAction a s
    if s.upc.toNat + 1 = pl.acts.length then .next (finishPlan pl t) else .next (t.setUpc (s.upc + 1))
  | none => .fault .sequencerLost

/-! ### The host's side and reset -/

/-- The host reads `RES`: "The host may read `RES` whenever `BUSY` = 0" (R12, R135; log 22). -/
def hostReadRes (s : State) : Option Word25 := if s.busy then none else some s.res

/-- The command on the port is taken off it (accepted, or lost while `BUSY` = 1: R135, log 11). -/
def dropCommand (s : State) : State := s.setPort { s.port with cmdValid := false }

/-- The host, when the block is idle and nothing is presented, presents its next command, if it has one (R8; log 10). -/
def hostMove (s : State) : State :=
  match s.port.program with
  | c :: rest => s.setPort { s.port with cmd := c, cmdValid := true, program := rest }
  | [] => s

/-- `RST` = 1 (R130, R141): every register of the block takes its value of R22, whatever was running; the constants, the
port, the environment and what was observed are not the block's registers. The values of the registers R22 leaves
unspecified are those of `State.reset` (logs 1, 2, 19). -/
def takeReset (s : State) : State :=
  { State.reset with params := s.params, port := s.port, env := s.env, trace := s.trace, pace := s.pace }

/-- The state `INIT` leaves the pins and `CONFIGURED` in (R70), used to place a command as the first instruction after reset
(log 10). -/
def bootIdle (s : State) : State :=
  { s with
    oe := ⟨false, true, false, true⟩
    o := { s.o with clk := false, data := true, wren := false }
    configured := true }

end Sys2Proof.Machine
end

