-- ==== Sys2Proof/Machine/Flags.lean ====
section
/-! DEFINITION. The block's two flags, `BUSY` and `CONFIGURED` (10_state.md R15, R16), as the accept condition
(60_exceptions.md R114). There are no arithmetic flags: "no carry, no overflow, no error flag" (R16). Where the flags are
written: `startPlan` and `finishPlan` (Ops.lean). -/

namespace Sys2Proof.Machine

/-- Accept in any configuration (INIT): refused only while `BUSY` = 1. -/
def whenIdle (s : State) (k : State → State) : Host.Outcome State Fault Refusal :=
  if s.busy then .refused .busy else .next (k s)

/-- Accept of every other command and transfer: refused while `BUSY` = 1 or `CONFIGURED` = 0; nothing changes then. -/
def whenReady (s : State) (k : State → State) : Host.Outcome State Fault Refusal :=
  if s.busy then .refused .busy else if s.configured then .next (k s) else .refused .notConfigured

/-- A command as one big step: `CMDL <- c` at accept (R13, R15), then the plan. -/
def runCommand (w : CmdWord) (pl : Plan) (s : State) : State := runPlan pl (s.setCmdl w)

/-- Only the accept of a command (R15): the first of its single steps. -/
def acceptCommand (w : CmdWord) (pl : Plan) (s : State) : State := startPlan pl (s.setCmdl w)

end Sys2Proof.Machine
end

