-- ==== Sys2Proof/Machine/Init.lean ====
section
/-! DEFINITION. `INIT` (40_init_clock.md R70). -/

namespace Sys2Proof.Machine

/-- The seven actions, then `CONFIGURED <- 1` (R70). -/
def planInit : Plan := ⟨none, initActions, .setConfigured⟩

/-- `INIT`: "Accepted when `BUSY` = 0, whatever `CONFIGURED` is" (R70, D27). -/
def execInit (ignored : BitVec 25) (s : State) : Host.Outcome State Fault Refusal :=
  whenIdle s (runCommand (cmdWord 0 ignored) planInit)

end Sys2Proof.Machine
end

