-- ==== Sys2Proof/Machine/Transfer.lean ====
section
/-! DEFINITION. `WRITE` and `READ` (41_transfer.md R81, R83), and the words on the wire as transfers of their own: a control
word is what `TX25` sends (R51, R80), a status word what `RX25` receives (R58, R82). Log 13. -/

namespace Sys2Proof.Machine

/-- Send a word: `SR` loaded with it, then `TX25` (R80, R81). -/
def planTransmit (w : Word25) : Plan := ⟨some w, tx25, .nothing⟩

def planWrite (wdata : Word25) : Plan := planTransmit wdata

/-- `RX25`, then `RES <- SR` (R83). -/
def planRead : Plan := ⟨none, rx25, .resFromSr⟩

/-- `RX25` alone (R82). -/
def planReceive : Plan := ⟨none, rx25, .nothing⟩

/-- `WRITE` (R81): the word as given, no mask. -/
def execWrite (wdata : Word25) (s : State) : Host.Outcome State Fault Refusal :=
  whenReady s (runCommand (cmdWord 1 wdata) (planWrite wdata))

/-- `READ` (R83). -/
def execRead (ignored : BitVec 25) (s : State) : Host.Outcome State Fault Refusal :=
  whenReady s (runCommand (cmdWord 2 ignored) planRead)

/-- The transfer of a FM preset word (R51, R80; log 13). -/
def execCw25PresetFm (c : BitVec 3) (p : BitVec 17) (s : State) : Host.Outcome State Fault Refusal :=
  whenReady s (runPlan (planTransmit (controlWord 0 0 0 0 c p)))

/-- The transfer of an AM preset word (R51, R80; log 13). -/
def execCw25PresetAm (c : BitVec 3) (p : BitVec 17) (s : State) : Host.Outcome State Fault Refusal :=
  whenReady s (runPlan (planTransmit (controlWord 0 0 1 0 c p)))

/-- The transfer of a search word (R51, R80; log 13). -/
def execCw25Search (d b : BitVec 1) (l : BitVec 2) (c : BitVec 3) (s : State) : Host.Outcome State Fault Refusal :=
  whenReady s (runPlan (planTransmit (controlWord 1 d b l c 0)))

/-- The receive of the word `w`: `RX25` with the environment answering its bits, first bit 24 (R36, R82), for this
transfer only. -/
def receiveWord (w : Word25) (s : State) : State :=
  let t := runPlan planReceive (s.setEnv { s.env with dataIn := bitsOfWord w })
  t.setEnv { t.env with dataIn := s.env.dataIn }

/-- The transfer of a status word (R58, R82; log 13). -/
def execSw25Status (ignored : BitVec 8) (p : BitVec 17) (s : State) : Host.Outcome State Fault Refusal :=
  whenReady s (receiveWord (statusWord ignored p))

end Sys2Proof.Machine
end

