-- ==== Sys2Proof/Machine/Packer.lean ====
section
/-! DEFINITION. `PRESET` and `SEARCH` (42_packer.md R91, R93): the packed word, then `TX25`. -/

namespace Sys2Proof.Machine

/-- A valid band sends the packed word; any other band has the empty list: "no transmission occurs, no error is signaled"
(R91, R111). -/
def planPreset (params : Params) (band : Band) (freq : BitVec 16) : Plan :=
  match packPreset params.configMask freq band with
  | some w => planTransmit w
  | none => ⟨none, [], .nothing⟩

/-- A word is always sent (R93). -/
def planSearch (params : Params) (dir : Direction) (level : Level) (band : Band) : Plan :=
  planTransmit (packSearch params.levels params.configMask band level dir)

/-- `PRESET` (R91). -/
def execPreset (ignored : BitVec 7) (band : Band) (freq : BitVec 16) (s : State) : Host.Outcome State Fault Refusal :=
  whenReady s (runCommand (cmdWord 3 (presetPayload ignored band freq)) (planPreset s.params band freq))

/-- `SEARCH` (R93). -/
def execSearch (ignored : BitVec 18) (dir : Direction) (level : Level) (band : Band) (s : State) :
    Host.Outcome State Fault Refusal :=
  whenReady s (runCommand (cmdWord 4 (searchPayload ignored dir level band)) (planSearch s.params dir level band))

end Sys2Proof.Machine
end

