-- ==== Sys2Proof/Machine/Query.lean ====
section
/-! DEFINITION. `GETPLL` and `ISSTEREO` (43_query.md R100, R101). -/

namespace Sys2Proof.Machine

/-- `RX25`, then `RES <- SR & STATUS_MASK` (R100). -/
def planGetpll : Plan := ⟨none, rx25, .resFromSrMasked⟩

/-- One sample of `MOST`; `RES` is its inverse (R101). -/
def planIsstereo : Plan := ⟨none, stereoActions, .nothing⟩

/-- `GETPLL` (R100). -/
def execGetpll (ignored : BitVec 25) (s : State) : Host.Outcome State Fault Refusal :=
  whenReady s (runCommand (cmdWord 5 ignored) planGetpll)

/-- `ISSTEREO` (R101). -/
def execIsstereo (ignored : BitVec 25) (s : State) : Host.Outcome State Fault Refusal :=
  whenReady s (runCommand (cmdWord 6 ignored) planIsstereo)

end Sys2Proof.Machine
end

