-- ==== Sys2Proof/Machine/Reserved.lean ====
section
/-! DEFINITION. `OP` = `111` (30_encoding.md R63, 60_exceptions.md R114). -/

namespace Sys2Proof.Machine

/-- "`refuse`: the spec gives it no meaning; the block accepts nothing and changes nothing" (R63, D15). -/
def execReservedOp7 (_ignored : BitVec 25) (_s : State) : Host.Outcome State Fault Refusal := .refused .reservedOp

end Sys2Proof.Machine
end

