-- ==== Sys2Proof/Machine/Dispatch.lean ====
section
/-! DEFINITION. One arm per instruction, one direct call each. -/

namespace Sys2Proof.Machine

def exec (i : Instr) (s : State) : Host.Outcome State Fault Refusal :=
  match i with
  | .init ignored => Sys2Proof.Machine.execInit ignored s
  | .write wdata => Sys2Proof.Machine.execWrite wdata s
  | .read ignored => Sys2Proof.Machine.execRead ignored s
  | .preset ignored band freq => Sys2Proof.Machine.execPreset ignored band freq s
  | .search ignored dir level band => Sys2Proof.Machine.execSearch ignored dir level band s
  | .getpll ignored => Sys2Proof.Machine.execGetpll ignored s
  | .isstereo ignored => Sys2Proof.Machine.execIsstereo ignored s
  | .reservedOp7 ignored => Sys2Proof.Machine.execReservedOp7 ignored s
  | .cw25PresetFm c p => Sys2Proof.Machine.execCw25PresetFm c p s
  | .cw25PresetAm c p => Sys2Proof.Machine.execCw25PresetAm c p s
  | .cw25Search d b l c => Sys2Proof.Machine.execCw25Search d b l c s
  | .sw25Status ignored p => Sys2Proof.Machine.execSw25Status ignored p s

end Sys2Proof.Machine
end

