-- ==== Sys2Proof/Machine/Sequencer.lean ====
section
/-! DEFINITION. The single steps of R14: accept of the command on the port, then one pin action of the command in `CMDL` per
step; and the placing of a word on the port. -/

namespace Sys2Proof.Machine

/-- The plan of a command; none for `OP` = `111` (R63) and for the words on the wire, which the host cannot issue (R60). -/
def planOf (params : Params) : Instr → Option Plan
  | .init _ => some planInit
  | .write wdata => some (planWrite wdata)
  | .read _ => some planRead
  | .preset _ band freq => some (planPreset params band freq)
  | .search _ dir level band => some (planSearch params dir level band)
  | .getpll _ => some planGetpll
  | .isstereo _ => some planIsstereo
  | .reservedOp7 _ => none
  | .cw25PresetFm _ _ => none
  | .cw25PresetAm _ _ => none
  | .cw25Search _ _ _ _ => none
  | .sw25Status _ _ => none

/-- The command on the port (R59). -/
def presentedCommand (s : State) : Instr := decodeCmd28 s.port.cmd

/-- The command in the latch: "the sequencer and the packer read the operation and its operands from `CMDL` only" (R13). -/
def latchedCommand (s : State) : Instr := decodeCmd28 s.cmdl

/-- One step while `BUSY` = 1 (R14). A command presented meanwhile is lost and disturbs nothing (R114, R135; log 11). -/
def busyStep (s : State) : Host.Outcome State Fault Refusal :=
  match planOf s.params (latchedCommand s) with
  | some pl => stepPlan pl (dropCommand s)
  | none => .fault .sequencerLost

/-- The accept alone, refused as R114 says; the whole word is latched (R13). -/
def acceptStep (s : State) : Host.Outcome State Fault Refusal :=
  match presentedCommand s with
  | .init _ => whenIdle (dropCommand s) (acceptCommand s.port.cmd planInit)
  | i =>
    match planOf s.params i with
    | some pl => whenReady (dropCommand s) (acceptCommand s.port.cmd pl)
    | none => .refused .reservedOp

/-- The command that transfers a word on the wire, with the environment's answers if it is received: the way a `CW25` or
`SW25` word comes to move in the machine (R65; log 16). Any other number is a command word. -/
def placeTableWord (s : State) (nbits w : Nat) : State :=
  let put (c : CmdWord) : State := s.setPort { s.port with rst := false, cmd := c, cmdValid := true }
  match decodeTableWord nbits w with
  | some (.sw25Status ignored p) =>
    (put (cmdWord 2 0)).setEnv { s.env with dataIn := bitsOfWord (statusWord ignored p) }
  | _ => if nbits = 25 then put (cmdWord 1 (BitVec.ofNat 25 w)) else put (BitVec.ofNat 28 w)

/-- `s` made ready so that the very next step accepts the command on the port: not busy, a whole command a step, and, for
any command but `INIT`, the state that `INIT` leaves (R131; log 10). -/
def readyForCommand (s : State) : State :=
  let t : State := { s with busy := false, pace := .whole }
  match presentedCommand s with
  | .init _ => t
  | _ => if s.configured then t else bootIdle t

end Sys2Proof.Machine
end

