-- ==== Sys2Proof/Machine/Step.lean ====
section
/-! DEFINITION. One step of the machine: reset wins (70_reset_and_hazards.md R130, 60_exceptions.md R116); a running command
goes on (R14); an idle block accepts the command presented (R15); else the host may present its next one (R8). -/

namespace Sys2Proof.Machine

def step (s : State) : Host.Outcome State Fault Refusal :=
  if s.port.rst then .next (takeReset s)
  else if s.busy then busyStep s
  else if s.port.cmdValid then
    match s.pace with
    | .whole => exec (presentedCommand s) (dropCommand s)
    | .single => acceptStep s
  else .next (hostMove s)

/-- `s` with the word of an opcode-table row presented as the next command (log 10, log 16). -/
def State.withFetchWord (s : State) (nbits w : Nat) : State := readyForCommand (placeTableWord s nbits w)

end Sys2Proof.Machine
end

