-- ==== Sys2Proof/Safety.lean ====
section
/-! DEFINITION. The terms the statements use: the idle state, the traces and the end states of the transfers in closed form
(as the tables of 95_test_vectors.md sections 2.3 and 2.4 give them), and what holds of every state a run can reach. -/

namespace Sys2Proof.Safety

open Sys2Proof.Machine

/-- `IDLE_PINS` (10_state.md R23); `O[MOST]` is not part of it. -/
abbrev IdlePins (s : State) : Prop :=
  s.oe = ⟨false, true, false, true⟩ ∧ s.o.clk = false ∧ s.o.data = true ∧ s.o.wren = false

/-- The condition under which every command but `INIT` is accepted (R15, R16, R114). -/
abbrev Ready (s : State) : Prop := s.busy = false ∧ s.configured = true

/-- `CONFIG_MASK & ~0x00E0000 = 0` (30_encoding.md R56). -/
abbrev Nominal (mask : Word25) : Prop := mask &&& ~~~0x00E0000#25 = 0

/-! ### Traces in closed form -/

/-- `CLKPULSE` (R71). -/
def pulseTrace : List PinAction := [.wr .clk true, .delay .tClk, .wr .clk false]

/-- The trace of `INIT` (R70, 95_test_vectors.md 2.1). -/
def initTrace : List PinAction :=
  [.dir .most .inp, .dir .clk .out, .wr .clk false, .dir .data .inp, .wr .data true, .dir .wren .out, .wr .wren false]

/-- The trace of a transmit of `w` (R80, 95_test_vectors.md 2.3). -/
def txTrace (w : Word25) : List PinAction :=
  [.wr .wren true, .dir .data .out] ++ (bitsOfWord w).flatMap (fun b => .wr .data b :: pulseTrace) ++
  [.dir .data .inp, .wr .data true, .wr .wren false]

/-- The trace of a receive whose samples are `bits` (R82, 95_test_vectors.md 2.4). -/
def rxTrace (bits : List Bool) : List PinAction :=
  [.delay .tSettle, .wr .wren true, .delay .tSettle, .wr .wren false, .delay .tSettle] ++
  (match bits with
   | [] => []
   | b :: rest => .rd .data b :: rest.flatMap (fun b => pulseTrace ++ [.rd .data b]))

/-- The levels written to `DATA`, in order. -/
def dataLevels (tr : List PinAction) : List Bool :=
  tr.filterMap fun a =>
    match a with
    | .wr .data l => some l
    | _ => none

/-! ### End states in closed form -/

/-- After `INIT` (R70). -/
def initialised (s : State) : State :=
  { s with
    upc := 6, busy := false, configured := true
    oe := ⟨false, true, false, true⟩
    o := { s.o with clk := false, data := true, wren := false }
    trace := s.trace ++ initTrace }

/-- After a transmit of `w` (R80). -/
def transmitted (w : Word25) (s : State) : State :=
  { s with
    sr := 0, upc := 104, busy := false
    oe := { s.oe with data := false }
    o := { s.o with clk := false, data := true, wren := false }
    trace := s.trace ++ txTrace w }

/-- After a receive of 25 answers of the environment on `DATA` (R82). -/
def received (s : State) : State :=
  { s with
    sr := wordOfBits (s.env.answers .data 25).1, upc := 101, busy := false
    o := { s.o with clk := false, wren := false }
    env := (s.env.answers .data 25).2
    trace := s.trace ++ rxTrace (s.env.answers .data 25).1 }

/-! ### What every reachable state satisfies -/

/-- The four kinds of action list of a command, and no list. -/
inductive ListKind where
  | init | transmit | receive | stereo | none
deriving DecidableEq, Repr

def listKind : Instr → ListKind
  | .init _ => .init
  | .write _ => .transmit
  | .read _ => .receive
  | .preset _ .fm _ => .transmit
  | .preset _ .am _ => .transmit
  | .preset _ _ _ => .none
  | .search _ _ _ _ => .transmit
  | .getpll _ => .receive
  | .isstereo _ => .stereo
  | _ => .none

/-- The pins when `UPC` actions of `INIT` are done; a repeated `INIT` changes no line (R70, its corner case (a)). -/
abbrev InitPins (s : State) : Prop :=
  s.upc.toNat ≤ 6 ∧ s.oe.data = false ∧ (1 ≤ s.upc.toNat → s.oe.most = false) ∧ (2 ≤ s.upc.toNat → s.oe.clk = true) ∧
  (3 ≤ s.upc.toNat → s.o.clk = false) ∧ (5 ≤ s.upc.toNat → s.o.data = true) ∧ (6 ≤ s.upc.toNat → s.oe.wren = true) ∧
  (s.configured = true → IdlePins s)

/-- The pins when `UPC` actions of `TX25` are done (R80, R45, R46). -/
abbrev TransmitPins (s : State) : Prop :=
  s.configured = true ∧ s.upc.toNat ≤ 104 ∧
  s.oe = ⟨false, true, decide (2 ≤ s.upc.toNat ∧ s.upc.toNat ≤ 102), true⟩ ∧
  s.o.wren = decide (1 ≤ s.upc.toNat) ∧
  s.o.clk = decide (4 ≤ s.upc.toNat ∧ s.upc.toNat ≤ 101 ∧ s.upc.toNat % 4 ≤ 1) ∧
  (s.upc.toNat ≤ 2 ∨ s.upc.toNat = 104 → s.o.data = true)

/-- The pins when `UPC` actions of `RX25` are done (R82, R45, R46). -/
abbrev ReceivePins (s : State) : Prop :=
  s.configured = true ∧ s.upc.toNat ≤ 101 ∧ s.oe = ⟨false, true, false, true⟩ ∧ s.o.data = true ∧
  s.o.wren = decide (s.upc.toNat = 2 ∨ s.upc.toNat = 3) ∧
  s.o.clk = decide (7 ≤ s.upc.toNat ∧ (s.upc.toNat % 4 = 3 ∨ s.upc.toNat % 4 = 0))

/-- The invariant of the sequencer. Idle: no line driven before `INIT` (R22), `IDLE_PINS` after it (R24). Busy: the latched
command has a list, `UPC` is inside it and the pins are what its first `UPC` actions make them. -/
abbrev SequencerInv (s : State) : Prop :=
  (s.busy = false → (s.configured = true → IdlePins s) ∧ (s.configured = false → s.oe = PinBits.zero)) ∧
  (s.busy = true →
    listKind (latchedCommand s) ≠ .none ∧
    (listKind (latchedCommand s) = .init → InitPins s) ∧
    (listKind (latchedCommand s) = .transmit → TransmitPins s) ∧
    (listKind (latchedCommand s) = .receive → ReceivePins s) ∧
    (listKind (latchedCommand s) = .stereo → s.configured = true ∧ s.upc = 0 ∧ IdlePins s))

/-! ### A host's program as a sequence of commands (20_memory.md R42) -/

/-- The commands one after another, with nothing in between. -/
def runCommands : List CmdWord → State → Host.Outcome State Fault Refusal
  | [], s => .next s
  | c :: rest, s =>
    match exec (decodeCmd28 c) s with
    | .next t => runCommands rest t
    | .fault f => .fault f
    | .refused r => .refused r

/-- A state with nothing on its host port: two states that agree on this agree but for the port. -/
def quietPort (s : State) : State := s.setPort ⟨false, 0, false, []⟩

/-- The same of an outcome. -/
def quietOutcome : Host.Outcome State Fault Refusal → Host.Outcome State Fault Refusal
  | .next s => .next (quietPort s)
  | .fault f => .fault f
  | .refused r => .refused r

/-- The number of actions of a command (0 where it has no list). -/
def listLength (params : Params) (i : Instr) : Nat :=
  match planOf params i with
  | some pl => pl.acts.length
  | none => 0

end Sys2Proof.Safety
end

