-- ==== Sys2Proof/Certificates/Slice0/Obligations.lean ====
section
/-! DEFINITION. The statements for the provers, from the numbered rules of spec/. A statement about a free value (an answer of
the environment) holds for every value of it. None rests on the reset value of `SR`, `RES`, `CMDL` or an `O` latch. -/

open Sys2Proof Sys2Proof.Machine Sys2Proof.Safety

/-! ### Encodings (30_encoding.md) -/

/-- R50, R51, R58, R59, R61: every instruction, with every operand at every value, is read back from its word. -/
def Obligations.DecodeInvertsEncode : Prop := ∀ i : Instr, decode (encode i) = .ok i

/-- The other way: a word that decodes is the word of the instruction it decodes to, every ignored bit included (R13, R59). -/
def Obligations.EncodeInvertsDecode : Prop := ∀ (w : FormatWord) (i : Instr), decode w = .ok i → encode i = w

/-- Words of 95_test_vectors.md 2.10, 2.5 and 2.6, and the reserved `OP` (R63). -/
def Obligations.SpecWordsDecode : Prop :=
  decode (.cmd28 0x1FFFFFF) = .ok (.init 0x1FFFFFF) ∧
  decode (.cmd28 0x3555555) = .ok (.write 0x1555555) ∧
  decode (.cmd28 0x7FC03E7) = .ok (.preset 0x7F .fm 999) ∧
  decode (.cmd28 0x800002D) = .ok (.search 0 .up .l3 .am) ∧
  decode (.cmd28 0x800007F) = .ok (.search 0 .outside3 .outside7 .outside3) ∧
  decode (.cmd28 0xA000000) = .ok (.getpll 0) ∧
  decode (.cmd28 0xE000000) = .ok (.reservedOp7 0) ∧
  decode (.cw25 0x00A2290) = .ok (.cw25PresetFm 5 8848) ∧
  decode (.cw25 0x1EA0000) = .ok (.cw25Search 1 1 2 5) ∧
  decode (.sw25 0x1FE2290) = .ok (.sw25Status 0xFF 8848)

/-- R63, R66: a 25-bit word is no control word exactly when a preset word (bit 24 clear) has a bit of `D` or `L`, or a search
word (bit 24 set) has a bit of `P`. -/
def Obligations.ControlWordShapes : Prop :=
  ∀ w : Word25,
    decodeCw25 w = .error .noControlWordShape ↔
      (w.getLsbD 24 = false ∧ (w.getLsbD 23 = true ∨ w.extractLsb' 20 2 ≠ 0)) ∨
      (w.getLsbD 24 = true ∧ w.extractLsb' 0 17 ≠ 0)

/-! ### The pin primitives and the clock pulse -/

/-- R32, R33: `PinDir` writes one `OE` bit and `PinWr` one `O` bit, each adds its action to the trace and changes nothing else;
a pin made an output at once drives the level in its latch, a pin made an input is not driven. -/
def Obligations.PinDirAndPinWrWriteOneBit : Prop :=
  ∀ (s : State) (p : Pin) (d : Dir) (l : Bool),
    pinDir p d s = { s with oe := s.oe.set p (decide (d = .out)), trace := s.trace ++ [.dir p d] } ∧
    pinWr p l s = { s with o := s.o.set p l, trace := s.trace ++ [.wr p l] } ∧
    (∀ q, (pinDir p d s).oe.get q = if q = p then decide (d = .out) else s.oe.get q) ∧
    (∀ q, (pinWr p l s).o.get q = if q = p then l else s.o.get q) ∧
    driven (pinDir p .out s) p = some (s.o.get p) ∧ driven (pinDir p .inp s) p = none ∧
    driven (pinWr p l s) p = if s.oe.get p = true then some l else none

/-- R34: a `PinRd` of an undriven line answers the oldest level the environment placed for `DATA`, respectively for `MOST`, or a
free value when none is placed (log 6), and changes nothing of the block. No level is placed for `CLK` and `WREN`, which no
rule reads. -/
def Obligations.PinRdTakesTheEnvironmentsAnswer : Prop :=
  ∀ (s : State) (b : Bool) (rest : List Bool),
    (s.oe.data = false →
      (s.env.dataIn = b :: rest →
        pinRd .data s = (b, { s with env := { s.env with dataIn := rest }, trace := s.trace ++ [.rd .data b] })) ∧
      (s.env.dataIn = [] →
        pinRd .data s =
          (Config.freeLevel .data s.env.freeReads,
            { s with
              env := { s.env with freeReads := s.env.freeReads + 1 }
              trace := s.trace ++ [.rd .data (Config.freeLevel .data s.env.freeReads)] }))) ∧
    (s.oe.most = false →
      (s.env.mostIn = b :: rest →
        pinRd .most s = (b, { s with env := { s.env with mostIn := rest }, trace := s.trace ++ [.rd .most b] })) ∧
      (s.env.mostIn = [] →
        pinRd .most s =
          (Config.freeLevel .most s.env.freeReads,
            { s with
              env := { s.env with freeReads := s.env.freeReads + 1 }
              trace := s.trace ++ [.rd .most (Config.freeLevel .most s.env.freeReads)] }))) ∧
    (∀ p : Pin, p = .clk ∨ p = .wren → s.oe.get p = false →
      pinRd p s =
        (Config.freeLevel p s.env.freeReads,
          { s with
            env := { s.env with freeReads := s.env.freeReads + 1 }
            trace := s.trace ++ [.rd p (Config.freeLevel p s.env.freeReads)] }))

/-- R71, R35: a clock pulse is high, one delay, low; it writes `O[CLK]` and nothing else. -/
def Obligations.ClkPulseRaisesWaitsAndLowers : Prop :=
  ∀ s : State,
    runActions (clkPulse false false) s =
      { s with
        o := { s.o with clk := false }
        trace := s.trace ++ [.wr .clk true, .delay .tClk, .wr .clk false] }

/-! ### The commands: result, frame and completion -/

/-- R70: `INIT`, whatever `CONFIGURED` is. The order of its actions is the spec's decision D11. -/
def Obligations.InitPutsThePinsInTheIdleState : Prop :=
  ∀ (x : BitVec 25) (s : State), s.busy = false →
    ∃ t, exec (.init x) s = .next t ∧ t = initialised { s with cmdl := cmdWord 0 x } ∧ IdlePins t

/-- R81: `OP` = 001 with the word in bits 24:0 is `WRITE`; it sends the 25 bits as given, no mask, MSB first (R80), leaves
`RES` alone and ends with the pins of `TX25`. The delays in the trace are where decisions D19 and D26 put them. -/
def Obligations.WriteTransmitsItsOperand : Prop :=
  ∀ (v : Word25) (s : State), Ready s →
    decode (.cmd28 (1#3 ++ v)) = .ok (.write v) ∧
    exec (.write v) s =
      .next
        { s with
          cmdl := cmdWord 1 v, sr := 0, upc := 104, busy := false
          oe := { s.oe with data := false }
          o := { s.o with clk := false, data := true, wren := false }
          trace := s.trace ++ txTrace v }

/-- R83, R82: `READ` takes 25 answers, MSB first, into `SR` and `RES`. The settling delays are where decision D10 puts them. -/
def Obligations.ReadReturnsTheSampledWord : Prop :=
  ∀ (x : BitVec 25) (s : State) (bits : List Bool) (e : Env), Ready s → s.oe.data = false →
    s.env.answers .data 25 = (bits, e) →
    exec (.read x) s =
      .next
        { s with
          cmdl := cmdWord 2 x, sr := wordOfBits bits, res := wordOfBits bits, upc := 101, busy := false
          o := { s.o with clk := false, wren := false }
          env := e
          trace := s.trace ++ rxTrace bits }

/-- R82: the `k`-th sample is bit `24 - k` of the word received. -/
def Obligations.ReceivedBitsAreMsbFirst : Prop :=
  ∀ (bits : List Bool) (k : Nat), bits.length = 25 → k ≤ 24 →
    (wordOfBits bits).getLsbD (24 - k) = bits.getD k false

/-- R100: `GETPLL` has the trace of `READ` and returns the low 17 bits. -/
def Obligations.GetpllReturnsTheLow17Bits : Prop :=
  ∀ (x : BitVec 25) (s : State) (bits : List Bool) (e : Env), Ready s → s.oe.data = false →
    s.env.answers .data 25 = (bits, e) →
    exec (.getpll x) s =
      .next
        { s with
          cmdl := cmdWord 5 x, sr := wordOfBits bits, res := ((wordOfBits bits).extractLsb' 0 17).setWidth 25
          upc := 101, busy := false
          o := { s.o with clk := false, wren := false }
          env := e
          trace := s.trace ++ rxTrace bits }

/-- R101: `OP` = 110 is `ISSTEREO`; it samples `MOST` once and returns the inverse; no pin register changes. -/
def Obligations.IsstereoReturnsTheInvertedLevel : Prop :=
  ∀ (x : BitVec 25) (s : State) (b : Bool) (e : Env), Ready s → s.oe.most = false → s.env.answer .most = (b, e) →
    decode (.cmd28 (6#3 ++ x)) = .ok (.isstereo x) ∧
    exec (.isstereo x) s =
      .next
        { s with
          cmdl := cmdWord 6 x, upc := 0, busy := false
          res := if b then 0x0000000 else 0x0000001
          env := e
          trace := s.trace ++ [.rd .most b] }

/-- R91, R90: `PRESET` with a valid band sends the mask OR'ed with the band bit, PLUS the divider, mod 2^25 (decision D5). -/
def Obligations.PresetTransmitsThePackedWord : Prop :=
  ∀ (x : BitVec 7) (f : BitVec 16) (s : State), Ready s →
    exec (.preset x .fm f) s =
      .next (transmitted (BitVec.ofNat 25 (s.params.configMask.toNat + (f.toNat + 107) * 8))
        { s with cmdl := cmdWord 3 (presetPayload x .fm f) }) ∧
    exec (.preset x .am f) s =
      .next (transmitted (BitVec.ofNat 25 ((0x0400000#25 ||| s.params.configMask).toNat + (f.toNat + 45) * 10))
        { s with cmdl := cmdWord 3 (presetPayload x .am f) })

/-- R111: `PRESET` with any other band is a no-op: nothing changes but the latched command word (R15). -/
def Obligations.PresetWithInvalidBandSendsNothing : Prop :=
  ∀ (x : BitVec 7) (band : Band) (f : BitVec 16) (s : State), Ready s → (band = .outside2 ∨ band = .outside3) →
    exec (.preset x band f) s = .next { s with cmdl := cmdWord 3 (presetPayload x band f) }

/-- R92, R93: `SEARCH` always sends the OR of the search bit, the mask, and the band, level and direction bits; level 1 and
every level outside the enumeration have the code 00. -/
def Obligations.SearchTransmitsThePackedWord : Prop :=
  ∀ (x : BitVec 18) (dir : Direction) (level : Level) (band : Band) (s : State), Ready s →
    exec (.search x dir level band) s =
      .next (transmitted
        (0x1000000#25 ||| s.params.configMask ||| (if band = .am then 0x0400000#25 else 0) |||
          ((levelCode s.params.levels level).setWidth 25 <<< 20) ||| (if dir = .up then 0x0800000#25 else 0))
        { s with cmdl := cmdWord 4 (searchPayload x dir level band) }) ∧
    (level ∉ [Level.l2, Level.l3, Level.l4] → levelCode s.params.levels level = 0)

/-- R112, R63: the word is always sent; a level outside 1 to 4 sends what level 1 sends and adds nothing to the level field, a
direction outside the enumeration (and NONE, U19) sends what DOWN sends and leaves the direction bit to the mask, a band
outside it (and FM) sends what FM sends. -/
def Obligations.SearchDefaultsInvalidCodes : Prop :=
  ∀ (x : BitVec 18) (dir : Direction) (level : Level) (band : Band) (s : State), Ready s →
    ∃ w t, exec (.search x dir level band) s = .next t ∧
      t = transmitted w { s with cmdl := cmdWord 4 (searchPayload x dir level band) } ∧
      (level ∉ [Level.l1, Level.l2, Level.l3, Level.l4] →
        w.extractLsb' 20 2 = s.params.configMask.extractLsb' 20 2 ∧
        ∃ u, exec (.search x dir .l1 band) s = .next u ∧ u = { t with cmdl := u.cmdl }) ∧
      (dir ≠ .up →
        w.getLsbD 23 = s.params.configMask.getLsbD 23 ∧
        ∃ u, exec (.search x .down level band) s = .next u ∧ u = { t with cmdl := u.cmdl }) ∧
      (band ≠ .am → ∃ u, exec (.search x dir level .fm) s = .next u ∧ u = { t with cmdl := u.cmdl })

/-- R55: level 1 has code 00 and levels 2, 3, 4 three distinct codes other than 00, for every level table. -/
def Obligations.LevelCodesAreDistinct : Prop :=
  ∀ t : LevelTable, levelCode t .l1 = 0 ∧ levelCode t .l2 ≠ 0 ∧ levelCode t .l3 ≠ 0 ∧ levelCode t .l4 ≠ 0 ∧
    levelCode t .l2 ≠ levelCode t .l3 ∧ levelCode t .l3 ≠ levelCode t .l4 ∧ levelCode t .l2 ≠ levelCode t .l4

/-- R51, R80, R66: the transfer of each of the three control words is the transmit of its 25 bits (DEDUCED, log 13). -/
def Obligations.ControlWordsAreTransmitted : Prop :=
  ∀ (d b : BitVec 1) (l : BitVec 2) (c : BitVec 3) (p : BitVec 17) (s : State), Ready s →
    exec (.cw25PresetFm c p) s = .next (transmitted (controlWord 0 0 0 0 c p) s) ∧
    exec (.cw25PresetAm c p) s = .next (transmitted (controlWord 0 0 1 0 c p) s) ∧
    exec (.cw25Search d b l c) s = .next (transmitted (controlWord 1 d b l c 0) s)

/-- R58, R82: the transfer of a status word leaves exactly that word in `SR`, with its bits as the samples (DEDUCED, log 13). -/
def Obligations.StatusWordIsReceived : Prop :=
  ∀ (x : BitVec 8) (p : BitVec 17) (s : State), Ready s → s.oe.data = false →
    exec (.sw25Status x p) s =
      .next
        { s with
          sr := statusWord x p, upc := 101, busy := false
          o := { s.o with clk := false, wren := false }
          trace := s.trace ++ rxTrace (bitsOfWord (statusWord x p)) }

/-! ### Refusals (60_exceptions.md R114) -/

/-- R63, R114: `OP` = 111 is refused in every state, by `exec` and by a step in either granularity. -/
def Obligations.ReservedOpIsRefused : Prop :=
  ∀ (x : BitVec 25) (s : State),
    exec (.reservedOp7 x) s = .refused .reservedOp ∧
    (s.port.rst = false → s.busy = false → s.port.cmdValid = true → s.port.cmd = cmdWord 7 x →
      step s = .refused .reservedOp)

/-- R114, R131: while `CONFIGURED` = 0 everything but `INIT` is refused. -/
def Obligations.NothingButInitBeforeInit : Prop :=
  ∀ (i : Instr) (s : State), s.busy = false → s.configured = false → (∀ x, i ≠ .init x) → (∀ x, i ≠ .reservedOp7 x) →
    exec i s = .refused .notConfigured

/-- R114, R118: while `BUSY` = 1 no command is accepted. -/
def Obligations.NothingIsAcceptedWhileBusy : Prop :=
  ∀ (i : Instr) (s : State), s.busy = true → (∀ x, i ≠ .reservedOp7 x) → exec i s = .refused .busy

/-! ### The packer (42_packer.md) -/

/-- R94, S1, S2: in range, with a mask outside bits 16:0, the low 17 bits of the word are the divider and the others those of
the base word: the addition equals an OR. -/
def Obligations.InRangePresetWordFields : Prop :=
  ∀ (mask : Word25) (f : BitVec 16), mask.extractLsb' 0 17 = 0 →
    (880 ≤ f.toNat → f.toNat ≤ 1080 →
      packPreset mask f .fm = some (mask.extractLsb' 17 8 ++ BitVec.ofNat 17 ((f.toNat + 107) * 8))) ∧
    (53 ≤ f.toNat → f.toNat ≤ 170 →
      packPreset mask f .am =
        some ((mask ||| 0x0400000#25).extractLsb' 17 8 ++ BitVec.ofNat 17 ((f.toNat + 45) * 10)))

/-- R95: the mask is in every search word, and in every preset word under the no-carry conditions of R94 (in range, mask clear
in bits 16:0). Outside them it need not be: `PRESET 16277, FM` with the mask `0x00E0000` sends `0x0100000` (R94). -/
def Obligations.MaskIsInEveryPackedWord : Prop :=
  (∀ (t : LevelTable) (mask : Word25) (band : Band) (level : Level) (dir : Direction),
    packSearch t mask band level dir &&& mask = mask) ∧
  (∀ (mask : Word25) (f : BitVec 16) (w : Word25), mask.extractLsb' 0 17 = 0 →
    (880 ≤ f.toNat → f.toNat ≤ 1080 → packPreset mask f .fm = some w → w &&& mask = mask) ∧
    (53 ≤ f.toNat → f.toNat ≤ 170 → packPreset mask f .am = some w → w &&& mask = mask))

/-- R52 to R57: the fields of a search word under a nominal mask. -/
def Obligations.SearchWordFields : Prop :=
  ∀ (t : LevelTable) (mask : Word25) (band : Band) (level : Level) (dir : Direction), Nominal mask →
    packSearch t mask band level dir =
      controlWord 1 (BitVec.ofBool (decide (dir = .up))) (BitVec.ofBool (decide (band = .am))) (levelCode t level)
        (mask.extractLsb' 17 3) 0

/-- R66: under a nominal mask the words `PRESET` sends in range are well-formed CW25 preset words, and those of `SEARCH` are
CW25 search words. -/
def Obligations.PackedWordsAreTableWords : Prop :=
  ∀ (t : LevelTable) (mask : Word25) (f : BitVec 16) (w : Word25), Nominal mask →
    (880 ≤ f.toNat → f.toNat ≤ 1080 → packPreset mask f .fm = some w →
      ∃ i, decodeCw25 w = .ok i ∧ i = .cw25PresetFm (mask.extractLsb' 17 3) (BitVec.ofNat 17 ((f.toNat + 107) * 8)) ∧
        i.wellFormed = true) ∧
    (53 ≤ f.toNat → f.toNat ≤ 170 → packPreset mask f .am = some w →
      ∃ i, decodeCw25 w = .ok i ∧ i = .cw25PresetAm (mask.extractLsb' 17 3) (BitVec.ofNat 17 ((f.toNat + 45) * 10)) ∧
        i.wellFormed = true) ∧
    (∀ band level dir, ∃ d b l, decodeCw25 (packSearch t mask band level dir) =
      .ok (.cw25Search d b l (mask.extractLsb' 17 3)))

/-! ### The wire -/

/-- R37, R7: a transmit adds 105 actions: 25 clock rises, 25 falls, 26 data writes (25 bits and the idle level), two direction
changes, two `WREN` writes and no read. The delays are not counted (D10, D26). -/
def Obligations.TransmitCounts : Prop :=
  ∀ (v : Word25) (s t : State), Ready s → exec (.write v) s = .next t →
    ∃ tr : List PinAction, t.trace = s.trace ++ tr ∧
      tr.count (.wr .clk true) = 25 ∧ tr.count (.wr .clk false) = 25 ∧
      tr.count (.wr .data true) + tr.count (.wr .data false) = 26 ∧
      tr.count (.dir .data .out) = 1 ∧ tr.count (.dir .data .inp) = 1 ∧
      tr.count (.wr .wren true) = 1 ∧ tr.count (.wr .wren false) = 1 ∧
      (∀ p b, tr.count (.rd p b) = 0)

/-- R37, C7: a receive adds 25 samples and 24 clock pulses, raises `WREN` once and changes no direction and no `DATA` latch. -/
def Obligations.ReceiveCounts : Prop :=
  ∀ (x : BitVec 25) (s t : State), Ready s → s.oe.data = false → exec (.read x) s = .next t →
    ∃ tr : List PinAction, t.trace = s.trace ++ tr ∧
      tr.count (.rd .data true) + tr.count (.rd .data false) = 25 ∧
      tr.count (.wr .clk true) = 24 ∧ tr.count (.wr .clk false) = 24 ∧
      tr.count (.wr .wren true) = 1 ∧ tr.count (.wr .wren false) = 1 ∧
      (∀ p d, tr.count (.dir p d) = 0) ∧ (∀ l, tr.count (.wr .data l) = 0)

/-- R84, S5: transfer symmetry. A word written by `WRITE`, whose 25 levels on `DATA` are the answers of the next `READ`, is
read back. -/
def Obligations.WriteThenReadReproducesTheWord : Prop :=
  ∀ (v : Word25) (x : BitVec 25) (s : State), Ready s →
    ∃ t tr, exec (.write v) s = .next t ∧ t.trace = s.trace ++ tr ∧
      ∃ u, exec (.read x) { t with env := { t.env with dataIn := (dataLevels tr).take 25 } } = .next u ∧
        u.sr = v ∧ u.res = v ∧ u.env.dataIn = []

/-- R65: the expansions. `PRESET` with a valid band and `SEARCH` are the `WRITE` of the packed word, `GETPLL` is `READ` and a
mask of 17 ones, up to the latched command word; `WRITE` is `TX25` of its operand, `READ` is `RX25` and `RES <- SR`. -/
def Obligations.CommandsAreTheirExpansions : Prop :=
  ∀ s : State, Ready s → s.oe.data = false →
    (∀ x band f w, packPreset s.params.configMask f band = some w →
      ∃ t u, exec (.preset x band f) s = .next t ∧ exec (.write w) s = .next u ∧ t = { u with cmdl := t.cmdl }) ∧
    (∀ x dir level band,
      ∃ t u, exec (.search x dir level band) s = .next t ∧
        exec (.write (packSearch s.params.levels s.params.configMask band level dir)) s = .next u ∧
        t = { u with cmdl := t.cmdl }) ∧
    (∀ x y, ∃ t u, exec (.getpll x) s = .next t ∧ exec (.read y) s = .next u ∧
      t = { u with cmdl := t.cmdl, res := u.res &&& 0x1FFFF#25 }) ∧
    (∀ v, ∃ t u, exec (.write v) s = .next t ∧ u = runActions tx25 { s with sr := v } ∧
      t = { u with cmdl := t.cmdl, upc := t.upc, busy := false }) ∧
    (∀ y, ∃ t u, exec (.read y) s = .next t ∧ u = runActions rx25 s ∧
      t = { u with cmdl := t.cmdl, upc := t.upc, busy := false, res := u.sr })

/-! ### Steps -/

/-- R15: a step out of reset, not busy, with a command presented, is `exec` of the decoded command; around it the step only
takes the command off the port. -/
def Obligations.StepRunsThePresentedCommand : Prop :=
  ∀ s : State, s.port.rst = false → s.busy = false → s.port.cmdValid = true → s.pace = .whole →
    ∃ i, decode (.cmd28 s.port.cmd) = .ok i ∧
      step s = exec i { s with port := { s.port with cmdValid := false } }

/-- Every word of the seven commands, placed by `withFetchWord`, is what the very next step runs, to a next state, whatever
the state was. How it is placed is the model's choice (log 10). -/
def Obligations.PlacedCommandRunsAtOnce : Prop :=
  ∀ (s : State) (w : Nat), w < 2 ^ 28 →
    ∃ i t, decodeTableWord 32 w = some i ∧ i = decodeCmd28 (BitVec.ofNat 28 w) ∧
      step (s.withFetchWord 32 w) = exec i t ∧ t.params = s.params ∧ t.trace = s.trace ∧ t.res = s.res ∧
      (w < 0xE000000 → ∃ u, exec i t = .next u)

/-- R130, R141, R116: `RST` = 1 wins over a running operation and a presented command; every register with a value in R22
takes it, no line is driven, the constants stay. -/
def Obligations.ResetWins : Prop :=
  ∀ s : State, s.port.rst = true →
    ∃ t, step s = .next t ∧ t.busy = false ∧ t.configured = false ∧ t.upc = 0 ∧ (∀ p, driven t p = none) ∧
      t.params = s.params ∧ t.port = s.port ∧ t.trace = s.trace

/-- R130, R8: an idle block with no command presented waits; the host presents its next command, if it has one (log 10). -/
def Obligations.IdleBlockWaits : Prop :=
  ∀ s : State, s.port.rst = false → s.busy = false → s.port.cmdValid = false →
    (s.port.program = [] → step s = .next s) ∧
    (∀ c rest, s.port.program = c :: rest →
      step s = .next { s with port := { s.port with cmd := c, cmdValid := true, program := rest } })

/-- R13, R114, R38: while `BUSY` = 1 what the port presents has no effect: the same step whatever is presented, and the
presented command is gone (log 11). -/
def Obligations.RunningOperationIgnoresThePort : Prop :=
  ∀ (s : State) (c : CmdWord) (v : Bool) (p : List CmdWord), s.port.rst = false → s.busy = true →
    quietOutcome (step (s.setPort ⟨false, c, v, p⟩)) = quietOutcome (step s) ∧
    (∀ t, step s = .next t → t.port = { s.port with cmdValid := false } ∧ t.cmdl = s.cmdl)

/-- R14, D19: the single steps of a command (accept, then one action a step) end where the one big step ends, with the same
trace, and are refused where it is refused. -/
def Obligations.SingleStepsMakeTheWholeCommand : Prop :=
  ∀ s : State, s.port.rst = false → s.busy = false → s.port.cmdValid = true → s.pace = .single →
    Host.Core.run Sys2Proof.core (1 + listLength s.params (decodeCmd28 s.port.cmd)) s =
      exec (decodeCmd28 s.port.cmd) { s with port := { s.port with cmdValid := false } }

/-- R42: from an idle block the commands of the host's program run one after another and their traces are concatenated, with
nothing in between. That the commands a host has still to present are the list `port.program`, and that each takes two steps
(presented, run), is the model's DESIGN CHOICE of log 10. -/
def Obligations.ProgramRunsItsCommandsInOrder : Prop :=
  ∀ (cs : List CmdWord) (s : State), s.busy = false → s.pace = .whole → s.port.rst = false → s.port.cmdValid = false →
    s.port.program = cs →
    quietOutcome (Host.Core.run Sys2Proof.core (2 * cs.length) s) = quietOutcome (runCommands cs (quietPort s))

/-! ### Invariants and whole-machine rules -/

/-- R22, R130: the state right after reset drives no line, is idle and not configured, has nothing presented, and satisfies
the invariant of the sequencer. -/
def Obligations.ResetStateSatisfiesTheInvariant : Prop :=
  SequencerInv State.reset ∧ State.reset.busy = false ∧ State.reset.configured = false ∧ State.reset.upc = 0 ∧
    State.reset.oe = PinBits.zero ∧ State.reset.params.configMask = Config.configMask

/-- R24, R22, R45, R46, R14: every step keeps the invariant of the sequencer. -/
def Obligations.StepKeepsTheSequencerInvariant : Prop :=
  ∀ s t : State, SequencerInv s → step s = .next t → SequencerInv t

/-- R14: in a state with the invariant no step raises a fault: `UPC` never leaves the list of the running command. -/
def Obligations.InvariantStatesNeverFault : Prop :=
  ∀ (s : State) (f : Fault), SequencerInv s → step s ≠ .fault f

/-- R45, R46: in a state with the invariant the block drives `DATA` only while it is busy, in write mode, with a transmitting
command latched and `UPC` from 2 to 102. -/
def Obligations.DataIsDrivenOnlyInWriteMode : Prop :=
  ∀ s : State, SequencerInv s → s.oe.data = true →
    s.busy = true ∧ s.o.wren = true ∧ driven s .wren = some true ∧ listKind (latchedCommand s) = .transmit ∧
      2 ≤ s.upc.toNat ∧ s.upc.toNat ≤ 102

/-- R46: in a state with the invariant, once the block is configured, `WREN` is high only while it is busy, with a transmitting
command latched and `UPC` from 1 to 104, or with a receiving one and `UPC` 2 or 3; a repeated `INIT` does not raise it. -/
def Obligations.WrenIsHighOnlyInTransfers : Prop :=
  ∀ s : State, SequencerInv s → s.configured = true → driven s .wren = some true →
    s.busy = true ∧
      ((listKind (latchedCommand s) = .transmit ∧ 1 ≤ s.upc.toNat ∧ s.upc.toNat ≤ 104) ∨
        (listKind (latchedCommand s) = .receive ∧ (s.upc.toNat = 2 ∨ s.upc.toNat = 3)))

/-- R18, R19, R44: no step writes `CONFIG_MASK`, the level table or the pin assignment, not even reset. -/
def Obligations.StepKeepsTheConstants : Prop :=
  ∀ s t : State, step s = .next t → t.params = s.params

/-- R16: `CONFIGURED` is cleared by nothing but reset, and set only by a step in which an `INIT` ends. -/
def Obligations.ConfiguredIsClearedOnlyByReset : Prop :=
  ∀ s t : State, s.port.rst = false → step s = .next t →
    (s.configured = true → t.configured = true) ∧
    (s.configured = false → t.configured = true → listKind (latchedCommand t) = .init ∧ t.busy = false)

/-- R12: a command other than `READ`, `GETPLL` and `ISSTEREO` leaves `RES` unchanged. -/
def Obligations.ResIsWrittenByQueriesOnly : Prop :=
  ∀ (i : Instr) (s t : State), exec i s = .next t →
    (∀ x, i ≠ .read x) → (∀ x, i ≠ .getpll x) → (∀ x, i ≠ .isstereo x) → t.res = s.res

/-- R7, R14, R42: a step never takes back what was observed; a single step of a running command adds exactly one action. -/
def Obligations.TraceOnlyGrows : Prop :=
  ∀ s t : State, step s = .next t →
    s.trace <+: t.trace ∧
    (s.port.rst = false → s.busy = true → t.trace.length = s.trace.length + 1)
end

