-- ==== Sys2Proof/Laws/Decode.lean ====
section
/-! SUPPORT. The small lemmas of the codes and of the fields of a word. -/

namespace Sys2Proof

@[simp] theorem bandOfCode_codeOfBand (b : Band) : bandOfCode (codeOfBand b) = b := by cases b <;> rfl

@[simp] theorem levelOfCode_codeOfLevel (l : Level) : levelOfCode (codeOfLevel l) = l := by cases l <;> rfl

@[simp] theorem directionOfCode_codeOfDirection (d : Direction) : directionOfCode (codeOfDirection d) = d := by
  cases d <;> rfl

@[simp] theorem codeOfBand_bandOfCode (c : BitVec 2) : codeOfBand (bandOfCode c) = c := by
  revert c; decide

@[simp] theorem codeOfLevel_levelOfCode (c : BitVec 3) : codeOfLevel (levelOfCode c) = c := by
  revert c; decide

@[simp] theorem codeOfDirection_directionOfCode (c : BitVec 2) : codeOfDirection (directionOfCode c) = c := by
  revert c; decide

/-- The high field of a concatenation. -/
theorem extract_high {a b : Nat} (x : BitVec a) (y : BitVec b) : (x ++ y).extractLsb' b a = x := by
  ext i hi
  rw [BitVec.getElem_extractLsb', BitVec.getLsbD_append]
  simp [BitVec.getLsbD_eq_getElem hi]

/-- A field that lies inside the low part of a concatenation. -/
theorem extract_low {a b : Nat} (x : BitVec a) (y : BitVec b) (k n : Nat) (h : k + n ≤ b) :
    (x ++ y).extractLsb' k n = y.extractLsb' k n := by
  ext i hi
  have : k + i < b := by omega
  simp [BitVec.getLsbD_append, this]

/-- A field that starts at bit 0 and covers all of a word. -/
theorem extract_all {n : Nat} (x : BitVec n) : x.extractLsb' 0 n = x := by
  ext i hi
  simp

/-- A word is its high field before its low one. -/
theorem extract_append {a b : Nat} (w : BitVec (a + b)) : w.extractLsb' b a ++ w.extractLsb' 0 b = w := by
  ext i hi
  simp only [BitVec.getElem_append, BitVec.getElem_extractLsb']
  split
  · simp [BitVec.getLsbD_eq_getElem hi]
  · have : b + (i - b) = i := by omega
    simp [this, BitVec.getLsbD_eq_getElem hi]

/-! ### The bits of the encoded words (R51, R58, R59) -/

theorem cmdWord_getLsbD (op : BitVec 3) (x : BitVec 25) (i : Nat) :
    (cmdWord op x).getLsbD i = if i < 25 then x.getLsbD i else op.getLsbD (i - 25) := by
  show (op ++ x : BitVec (3 + 25)).getLsbD i = _
  rw [BitVec.getLsbD_append]

theorem statusWord_getLsbD (x : BitVec 8) (p : BitVec 17) (i : Nat) :
    (statusWord x p).getLsbD i = if i < 17 then p.getLsbD i else x.getLsbD (i - 17) := by
  show (x ++ p : BitVec (8 + 17)).getLsbD i = _
  rw [BitVec.getLsbD_append]

theorem presetPayload_getLsbD (x : BitVec 7) (band : Band) (freq : BitVec 16) (i : Nat) :
    (presetPayload x band freq).getLsbD i =
      if i < 16 then freq.getLsbD i
      else if i < 18 then (codeOfBand band).getLsbD (i - 16) else x.getLsbD (i - 18) := by
  show (x ++ codeOfBand band ++ freq : BitVec (7 + 2 + 16)).getLsbD i = _
  rw [BitVec.getLsbD_append, BitVec.getLsbD_append]
  have h : i - 16 < 2 ↔ i < 18 ∨ i < 16 := by omega
  have e : i - 16 - 2 = i - 18 := by omega
  by_cases h16 : i < 16 <;> simp [h16, h, e]

theorem searchPayload_getLsbD (x : BitVec 18) (dir : Direction) (level : Level) (band : Band) (i : Nat) :
    (searchPayload x dir level band).getLsbD i =
      if i < 2 then (codeOfBand band).getLsbD i
      else if i < 5 then (codeOfLevel level).getLsbD (i - 2)
      else if i < 7 then (codeOfDirection dir).getLsbD (i - 5) else x.getLsbD (i - 7) := by
  show (x ++ codeOfDirection dir ++ codeOfLevel level ++ codeOfBand band : BitVec (18 + 2 + 3 + 2)).getLsbD i = _
  rw [BitVec.getLsbD_append, BitVec.getLsbD_append, BitVec.getLsbD_append]
  have h2 : i - 2 < 3 ↔ i < 5 := by omega
  have h3 : i - 5 < 2 ↔ i < 7 := by omega
  have e1 : i - 2 - 3 = i - 5 := by omega
  have e2 : i - 5 - 2 = i - 7 := by omega
  simp only [h2, h3, e1, e2]

theorem controlWord_getLsbD (s d b : BitVec 1) (l : BitVec 2) (c : BitVec 3) (p : BitVec 17) (i : Nat) :
    (controlWord s d b l c p).getLsbD i =
      if i < 17 then p.getLsbD i
      else if i < 20 then c.getLsbD (i - 17)
      else if i < 22 then l.getLsbD (i - 20)
      else if i < 23 then b.getLsbD (i - 22)
      else if i < 24 then d.getLsbD (i - 23) else s.getLsbD (i - 24) := by
  show (s ++ d ++ b ++ l ++ c ++ p : BitVec (1 + 1 + 1 + 2 + 3 + 17)).getLsbD i = _
  simp only [BitVec.getLsbD_append]
  have h1 : i - 17 < 3 ↔ i < 20 := by omega
  have h2 : i - 20 < 2 ↔ i < 22 := by omega
  have h3 : i - 22 < 1 ↔ i < 23 := by omega
  have h4 : i - 23 < 1 ↔ i < 24 := by omega
  have e1 : i - 17 - 3 = i - 20 := by omega
  have e2 : i - 20 - 2 = i - 22 := by omega
  have e3 : i - 22 - 1 = i - 23 := by omega
  have e4 : i - 23 - 1 = i - 24 := by omega
  simp only [h1, h2, h3, h4, e1, e2, e3, e4]

/-- Two words are equal when their bits are (with the lemmas above this reads a field out of a word). -/
theorem extract_eq {n m k : Nat} {w : BitVec n} {x : BitVec m} (h : ∀ i, i < m → w.getLsbD (k + i) = x.getLsbD i) :
    w.extractLsb' k m = x := by
  apply BitVec.eq_of_getLsbD_eq
  intro i hi
  rw [BitVec.getLsbD_extractLsb', h i hi]
  simp [hi]

end Sys2Proof
end

