-- ==== Sys2Proof/Laws/State.lean ====
section
/-! SUPPORT. The small lemmas of the state's updates: one per update and field, true by definition. -/

namespace Sys2Proof.Machine

/-- Two states with equal fields are equal. -/
theorem State.eq_of_fields {s t : State} (h1 : s.sr = t.sr) (h2 : s.res = t.res) (h3 : s.cmdl = t.cmdl) (h4 : s.upc = t.upc)
    (h5 : s.busy = t.busy) (h6 : s.configured = t.configured) (h7 : s.oe = t.oe) (h8 : s.o = t.o)
    (h9 : s.params = t.params) (h10 : s.port = t.port) (h11 : s.env = t.env) (h12 : s.trace = t.trace)
    (h13 : s.pace = t.pace) : s = t := by
  cases s
  cases t
  simp_all

@[simp] theorem State.setSr_sr (s : State) (v : Word25) : (s.setSr v).sr = v := rfl
@[simp] theorem State.setSr_res (s : State) (v : Word25) : (s.setSr v).res = s.res := rfl
@[simp] theorem State.setSr_cmdl (s : State) (v : Word25) : (s.setSr v).cmdl = s.cmdl := rfl
@[simp] theorem State.setSr_upc (s : State) (v : Word25) : (s.setSr v).upc = s.upc := rfl
@[simp] theorem State.setSr_busy (s : State) (v : Word25) : (s.setSr v).busy = s.busy := rfl
@[simp] theorem State.setSr_configured (s : State) (v : Word25) : (s.setSr v).configured = s.configured := rfl
@[simp] theorem State.setSr_oe (s : State) (v : Word25) : (s.setSr v).oe = s.oe := rfl
@[simp] theorem State.setSr_o (s : State) (v : Word25) : (s.setSr v).o = s.o := rfl
@[simp] theorem State.setSr_params (s : State) (v : Word25) : (s.setSr v).params = s.params := rfl
@[simp] theorem State.setSr_port (s : State) (v : Word25) : (s.setSr v).port = s.port := rfl
@[simp] theorem State.setSr_env (s : State) (v : Word25) : (s.setSr v).env = s.env := rfl
@[simp] theorem State.setSr_trace (s : State) (v : Word25) : (s.setSr v).trace = s.trace := rfl
@[simp] theorem State.setSr_pace (s : State) (v : Word25) : (s.setSr v).pace = s.pace := rfl

@[simp] theorem State.setRes_sr (s : State) (v : Word25) : (s.setRes v).sr = s.sr := rfl
@[simp] theorem State.setRes_res (s : State) (v : Word25) : (s.setRes v).res = v := rfl
@[simp] theorem State.setRes_cmdl (s : State) (v : Word25) : (s.setRes v).cmdl = s.cmdl := rfl
@[simp] theorem State.setRes_upc (s : State) (v : Word25) : (s.setRes v).upc = s.upc := rfl
@[simp] theorem State.setRes_busy (s : State) (v : Word25) : (s.setRes v).busy = s.busy := rfl
@[simp] theorem State.setRes_configured (s : State) (v : Word25) : (s.setRes v).configured = s.configured := rfl
@[simp] theorem State.setRes_oe (s : State) (v : Word25) : (s.setRes v).oe = s.oe := rfl
@[simp] theorem State.setRes_o (s : State) (v : Word25) : (s.setRes v).o = s.o := rfl
@[simp] theorem State.setRes_params (s : State) (v : Word25) : (s.setRes v).params = s.params := rfl
@[simp] theorem State.setRes_port (s : State) (v : Word25) : (s.setRes v).port = s.port := rfl
@[simp] theorem State.setRes_env (s : State) (v : Word25) : (s.setRes v).env = s.env := rfl
@[simp] theorem State.setRes_trace (s : State) (v : Word25) : (s.setRes v).trace = s.trace := rfl
@[simp] theorem State.setRes_pace (s : State) (v : Word25) : (s.setRes v).pace = s.pace := rfl

@[simp] theorem State.setCmdl_sr (s : State) (v : CmdWord) : (s.setCmdl v).sr = s.sr := rfl
@[simp] theorem State.setCmdl_res (s : State) (v : CmdWord) : (s.setCmdl v).res = s.res := rfl
@[simp] theorem State.setCmdl_cmdl (s : State) (v : CmdWord) : (s.setCmdl v).cmdl = v := rfl
@[simp] theorem State.setCmdl_upc (s : State) (v : CmdWord) : (s.setCmdl v).upc = s.upc := rfl
@[simp] theorem State.setCmdl_busy (s : State) (v : CmdWord) : (s.setCmdl v).busy = s.busy := rfl
@[simp] theorem State.setCmdl_configured (s : State) (v : CmdWord) : (s.setCmdl v).configured = s.configured := rfl
@[simp] theorem State.setCmdl_oe (s : State) (v : CmdWord) : (s.setCmdl v).oe = s.oe := rfl
@[simp] theorem State.setCmdl_o (s : State) (v : CmdWord) : (s.setCmdl v).o = s.o := rfl
@[simp] theorem State.setCmdl_params (s : State) (v : CmdWord) : (s.setCmdl v).params = s.params := rfl
@[simp] theorem State.setCmdl_port (s : State) (v : CmdWord) : (s.setCmdl v).port = s.port := rfl
@[simp] theorem State.setCmdl_env (s : State) (v : CmdWord) : (s.setCmdl v).env = s.env := rfl
@[simp] theorem State.setCmdl_trace (s : State) (v : CmdWord) : (s.setCmdl v).trace = s.trace := rfl
@[simp] theorem State.setCmdl_pace (s : State) (v : CmdWord) : (s.setCmdl v).pace = s.pace := rfl

@[simp] theorem State.setUpc_sr (s : State) (v : BitVec 7) : (s.setUpc v).sr = s.sr := rfl
@[simp] theorem State.setUpc_res (s : State) (v : BitVec 7) : (s.setUpc v).res = s.res := rfl
@[simp] theorem State.setUpc_cmdl (s : State) (v : BitVec 7) : (s.setUpc v).cmdl = s.cmdl := rfl
@[simp] theorem State.setUpc_upc (s : State) (v : BitVec 7) : (s.setUpc v).upc = v := rfl
@[simp] theorem State.setUpc_busy (s : State) (v : BitVec 7) : (s.setUpc v).busy = s.busy := rfl
@[simp] theorem State.setUpc_configured (s : State) (v : BitVec 7) : (s.setUpc v).configured = s.configured := rfl
@[simp] theorem State.setUpc_oe (s : State) (v : BitVec 7) : (s.setUpc v).oe = s.oe := rfl
@[simp] theorem State.setUpc_o (s : State) (v : BitVec 7) : (s.setUpc v).o = s.o := rfl
@[simp] theorem State.setUpc_params (s : State) (v : BitVec 7) : (s.setUpc v).params = s.params := rfl
@[simp] theorem State.setUpc_port (s : State) (v : BitVec 7) : (s.setUpc v).port = s.port := rfl
@[simp] theorem State.setUpc_env (s : State) (v : BitVec 7) : (s.setUpc v).env = s.env := rfl
@[simp] theorem State.setUpc_trace (s : State) (v : BitVec 7) : (s.setUpc v).trace = s.trace := rfl
@[simp] theorem State.setUpc_pace (s : State) (v : BitVec 7) : (s.setUpc v).pace = s.pace := rfl

@[simp] theorem State.setBusy_sr (s : State) (v : Bool) : (s.setBusy v).sr = s.sr := rfl
@[simp] theorem State.setBusy_res (s : State) (v : Bool) : (s.setBusy v).res = s.res := rfl
@[simp] theorem State.setBusy_cmdl (s : State) (v : Bool) : (s.setBusy v).cmdl = s.cmdl := rfl
@[simp] theorem State.setBusy_upc (s : State) (v : Bool) : (s.setBusy v).upc = s.upc := rfl
@[simp] theorem State.setBusy_busy (s : State) (v : Bool) : (s.setBusy v).busy = v := rfl
@[simp] theorem State.setBusy_configured (s : State) (v : Bool) : (s.setBusy v).configured = s.configured := rfl
@[simp] theorem State.setBusy_oe (s : State) (v : Bool) : (s.setBusy v).oe = s.oe := rfl
@[simp] theorem State.setBusy_o (s : State) (v : Bool) : (s.setBusy v).o = s.o := rfl
@[simp] theorem State.setBusy_params (s : State) (v : Bool) : (s.setBusy v).params = s.params := rfl
@[simp] theorem State.setBusy_port (s : State) (v : Bool) : (s.setBusy v).port = s.port := rfl
@[simp] theorem State.setBusy_env (s : State) (v : Bool) : (s.setBusy v).env = s.env := rfl
@[simp] theorem State.setBusy_trace (s : State) (v : Bool) : (s.setBusy v).trace = s.trace := rfl
@[simp] theorem State.setBusy_pace (s : State) (v : Bool) : (s.setBusy v).pace = s.pace := rfl

@[simp] theorem State.setConfigured_sr (s : State) (v : Bool) : (s.setConfigured v).sr = s.sr := rfl
@[simp] theorem State.setConfigured_res (s : State) (v : Bool) : (s.setConfigured v).res = s.res := rfl
@[simp] theorem State.setConfigured_cmdl (s : State) (v : Bool) : (s.setConfigured v).cmdl = s.cmdl := rfl
@[simp] theorem State.setConfigured_upc (s : State) (v : Bool) : (s.setConfigured v).upc = s.upc := rfl
@[simp] theorem State.setConfigured_busy (s : State) (v : Bool) : (s.setConfigured v).busy = s.busy := rfl
@[simp] theorem State.setConfigured_configured (s : State) (v : Bool) : (s.setConfigured v).configured = v := rfl
@[simp] theorem State.setConfigured_oe (s : State) (v : Bool) : (s.setConfigured v).oe = s.oe := rfl
@[simp] theorem State.setConfigured_o (s : State) (v : Bool) : (s.setConfigured v).o = s.o := rfl
@[simp] theorem State.setConfigured_params (s : State) (v : Bool) : (s.setConfigured v).params = s.params := rfl
@[simp] theorem State.setConfigured_port (s : State) (v : Bool) : (s.setConfigured v).port = s.port := rfl
@[simp] theorem State.setConfigured_env (s : State) (v : Bool) : (s.setConfigured v).env = s.env := rfl
@[simp] theorem State.setConfigured_trace (s : State) (v : Bool) : (s.setConfigured v).trace = s.trace := rfl
@[simp] theorem State.setConfigured_pace (s : State) (v : Bool) : (s.setConfigured v).pace = s.pace := rfl

@[simp] theorem State.setOe_sr (s : State) (p : Pin) (v : Bool) : (s.setOe p v).sr = s.sr := rfl
@[simp] theorem State.setOe_res (s : State) (p : Pin) (v : Bool) : (s.setOe p v).res = s.res := rfl
@[simp] theorem State.setOe_cmdl (s : State) (p : Pin) (v : Bool) : (s.setOe p v).cmdl = s.cmdl := rfl
@[simp] theorem State.setOe_upc (s : State) (p : Pin) (v : Bool) : (s.setOe p v).upc = s.upc := rfl
@[simp] theorem State.setOe_busy (s : State) (p : Pin) (v : Bool) : (s.setOe p v).busy = s.busy := rfl
@[simp] theorem State.setOe_configured (s : State) (p : Pin) (v : Bool) : (s.setOe p v).configured = s.configured := rfl
@[simp] theorem State.setOe_oe (s : State) (p : Pin) (v : Bool) : (s.setOe p v).oe = s.oe.set p v := rfl
@[simp] theorem State.setOe_o (s : State) (p : Pin) (v : Bool) : (s.setOe p v).o = s.o := rfl
@[simp] theorem State.setOe_params (s : State) (p : Pin) (v : Bool) : (s.setOe p v).params = s.params := rfl
@[simp] theorem State.setOe_port (s : State) (p : Pin) (v : Bool) : (s.setOe p v).port = s.port := rfl
@[simp] theorem State.setOe_env (s : State) (p : Pin) (v : Bool) : (s.setOe p v).env = s.env := rfl
@[simp] theorem State.setOe_trace (s : State) (p : Pin) (v : Bool) : (s.setOe p v).trace = s.trace := rfl
@[simp] theorem State.setOe_pace (s : State) (p : Pin) (v : Bool) : (s.setOe p v).pace = s.pace := rfl

@[simp] theorem State.setO_sr (s : State) (p : Pin) (v : Bool) : (s.setO p v).sr = s.sr := rfl
@[simp] theorem State.setO_res (s : State) (p : Pin) (v : Bool) : (s.setO p v).res = s.res := rfl
@[simp] theorem State.setO_cmdl (s : State) (p : Pin) (v : Bool) : (s.setO p v).cmdl = s.cmdl := rfl
@[simp] theorem State.setO_upc (s : State) (p : Pin) (v : Bool) : (s.setO p v).upc = s.upc := rfl
@[simp] theorem State.setO_busy (s : State) (p : Pin) (v : Bool) : (s.setO p v).busy = s.busy := rfl
@[simp] theorem State.setO_configured (s : State) (p : Pin) (v : Bool) : (s.setO p v).configured = s.configured := rfl
@[simp] theorem State.setO_oe (s : State) (p : Pin) (v : Bool) : (s.setO p v).oe = s.oe := rfl
@[simp] theorem State.setO_o (s : State) (p : Pin) (v : Bool) : (s.setO p v).o = s.o.set p v := rfl
@[simp] theorem State.setO_params (s : State) (p : Pin) (v : Bool) : (s.setO p v).params = s.params := rfl
@[simp] theorem State.setO_port (s : State) (p : Pin) (v : Bool) : (s.setO p v).port = s.port := rfl
@[simp] theorem State.setO_env (s : State) (p : Pin) (v : Bool) : (s.setO p v).env = s.env := rfl
@[simp] theorem State.setO_trace (s : State) (p : Pin) (v : Bool) : (s.setO p v).trace = s.trace := rfl
@[simp] theorem State.setO_pace (s : State) (p : Pin) (v : Bool) : (s.setO p v).pace = s.pace := rfl

@[simp] theorem State.setPort_sr (s : State) (v : HostPort) : (s.setPort v).sr = s.sr := rfl
@[simp] theorem State.setPort_res (s : State) (v : HostPort) : (s.setPort v).res = s.res := rfl
@[simp] theorem State.setPort_cmdl (s : State) (v : HostPort) : (s.setPort v).cmdl = s.cmdl := rfl
@[simp] theorem State.setPort_upc (s : State) (v : HostPort) : (s.setPort v).upc = s.upc := rfl
@[simp] theorem State.setPort_busy (s : State) (v : HostPort) : (s.setPort v).busy = s.busy := rfl
@[simp] theorem State.setPort_configured (s : State) (v : HostPort) : (s.setPort v).configured = s.configured := rfl
@[simp] theorem State.setPort_oe (s : State) (v : HostPort) : (s.setPort v).oe = s.oe := rfl
@[simp] theorem State.setPort_o (s : State) (v : HostPort) : (s.setPort v).o = s.o := rfl
@[simp] theorem State.setPort_params (s : State) (v : HostPort) : (s.setPort v).params = s.params := rfl
@[simp] theorem State.setPort_port (s : State) (v : HostPort) : (s.setPort v).port = v := rfl
@[simp] theorem State.setPort_env (s : State) (v : HostPort) : (s.setPort v).env = s.env := rfl
@[simp] theorem State.setPort_trace (s : State) (v : HostPort) : (s.setPort v).trace = s.trace := rfl
@[simp] theorem State.setPort_pace (s : State) (v : HostPort) : (s.setPort v).pace = s.pace := rfl

@[simp] theorem State.setEnv_sr (s : State) (v : Env) : (s.setEnv v).sr = s.sr := rfl
@[simp] theorem State.setEnv_res (s : State) (v : Env) : (s.setEnv v).res = s.res := rfl
@[simp] theorem State.setEnv_cmdl (s : State) (v : Env) : (s.setEnv v).cmdl = s.cmdl := rfl
@[simp] theorem State.setEnv_upc (s : State) (v : Env) : (s.setEnv v).upc = s.upc := rfl
@[simp] theorem State.setEnv_busy (s : State) (v : Env) : (s.setEnv v).busy = s.busy := rfl
@[simp] theorem State.setEnv_configured (s : State) (v : Env) : (s.setEnv v).configured = s.configured := rfl
@[simp] theorem State.setEnv_oe (s : State) (v : Env) : (s.setEnv v).oe = s.oe := rfl
@[simp] theorem State.setEnv_o (s : State) (v : Env) : (s.setEnv v).o = s.o := rfl
@[simp] theorem State.setEnv_params (s : State) (v : Env) : (s.setEnv v).params = s.params := rfl
@[simp] theorem State.setEnv_port (s : State) (v : Env) : (s.setEnv v).port = s.port := rfl
@[simp] theorem State.setEnv_env (s : State) (v : Env) : (s.setEnv v).env = v := rfl
@[simp] theorem State.setEnv_trace (s : State) (v : Env) : (s.setEnv v).trace = s.trace := rfl
@[simp] theorem State.setEnv_pace (s : State) (v : Env) : (s.setEnv v).pace = s.pace := rfl

@[simp] theorem State.emit_sr (s : State) (a : PinAction) : (s.emit a).sr = s.sr := rfl
@[simp] theorem State.emit_res (s : State) (a : PinAction) : (s.emit a).res = s.res := rfl
@[simp] theorem State.emit_cmdl (s : State) (a : PinAction) : (s.emit a).cmdl = s.cmdl := rfl
@[simp] theorem State.emit_upc (s : State) (a : PinAction) : (s.emit a).upc = s.upc := rfl
@[simp] theorem State.emit_busy (s : State) (a : PinAction) : (s.emit a).busy = s.busy := rfl
@[simp] theorem State.emit_configured (s : State) (a : PinAction) : (s.emit a).configured = s.configured := rfl
@[simp] theorem State.emit_oe (s : State) (a : PinAction) : (s.emit a).oe = s.oe := rfl
@[simp] theorem State.emit_o (s : State) (a : PinAction) : (s.emit a).o = s.o := rfl
@[simp] theorem State.emit_params (s : State) (a : PinAction) : (s.emit a).params = s.params := rfl
@[simp] theorem State.emit_port (s : State) (a : PinAction) : (s.emit a).port = s.port := rfl
@[simp] theorem State.emit_env (s : State) (a : PinAction) : (s.emit a).env = s.env := rfl
@[simp] theorem State.emit_trace (s : State) (a : PinAction) : (s.emit a).trace = s.trace ++ [a] := rfl
@[simp] theorem State.emit_pace (s : State) (a : PinAction) : (s.emit a).pace = s.pace := rfl

@[simp] theorem PinBits.get_most (b : PinBits) : b.get .most = b.most := rfl
@[simp] theorem PinBits.get_clk (b : PinBits) : b.get .clk = b.clk := rfl
@[simp] theorem PinBits.get_data (b : PinBits) : b.get .data = b.data := rfl
@[simp] theorem PinBits.get_wren (b : PinBits) : b.get .wren = b.wren := rfl
@[simp] theorem PinBits.set_most (b : PinBits) (v : Bool) : b.set .most v = { b with most := v } := rfl
@[simp] theorem PinBits.set_clk (b : PinBits) (v : Bool) : b.set .clk v = { b with clk := v } := rfl
@[simp] theorem PinBits.set_data (b : PinBits) (v : Bool) : b.set .data v = { b with data := v } := rfl
@[simp] theorem PinBits.set_wren (b : PinBits) (v : Bool) : b.set .wren v = { b with wren := v } := rfl

/-- A write of one pin's bit is read back, and leaves the other pins alone. -/
theorem PinBits.get_set (b : PinBits) (p q : Pin) (v : Bool) : (b.set p v).get q = if q = p then v else b.get q := by
  cases p <;> cases q <;> rfl

end Sys2Proof.Machine
end

