-- ==== Sys2Proof/Laws/Ops.lean ====
section
/-! SUPPORT. One lemma for each shared operation that says everything it does; the provers cite these instead of unfolding. -/

namespace Sys2Proof.Machine

open Sys2Proof.Safety

/-! ### Action lists -/

theorem runActions_append (as bs : List Action) (s : State) :
    runActions (as ++ bs) s = runActions bs (runActions as s) := by
  induction as generalizing s with
  | nil => rfl
  | cons a as ih => exact ih (runAction a s)

theorem initActions_length : initActions.length = 7 := rfl

theorem tx25_length : tx25.length = 105 := by decide

theorem rx25_length : rx25.length = 102 := by decide

/-- R80's list as a function of the index. -/
def txAction (k : Nat) : Action :=
  if k = 0 then plain (.wr .wren true)
  else if k = 1 then plain (.dir .data .out)
  else if k = 102 then plain (.dir .data .inp)
  else if k = 103 then plain (.wr .data true)
  else if k = 104 then plain (.wr .wren false)
  else if k % 4 = 2 then plain .wrSr
  else if k % 4 = 3 then plain (.wr .clk true)
  else if k % 4 = 0 then plain (.delay .tClk)
  else ⟨false, .wr .clk false, true⟩

/-- R82's list as a function of the index. -/
def rxAction (k : Nat) : Action :=
  if k = 0 ∨ k = 2 ∨ k = 4 then plain (.delay .tSettle)
  else if k = 1 then plain (.wr .wren true)
  else if k = 3 then plain (.wr .wren false)
  else if k = 5 then plain .rdFirst
  else if k % 4 = 2 then ⟨true, .wr .clk true, false⟩
  else if k % 4 = 3 then plain (.delay .tClk)
  else if k % 4 = 0 then plain (.wr .clk false)
  else plain .rdNext

theorem tx25_eq : tx25 = (List.range 105).map txAction := by decide

theorem rx25_eq : rx25 = (List.range 102).map rxAction := by decide

theorem tx25_getElem (k : Nat) (h : k < 105) : tx25[k]? = some (txAction k) := by
  simp [tx25_eq, h]

theorem rx25_getElem (k : Nat) (h : k < 102) : rx25[k]? = some (rxAction k) := by
  simp [rx25_eq, h]

/-! ### The environment's answers -/

theorem answers_length (p : Pin) (n : Nat) (e : Env) : (e.answers p n).1.length = n := by
  induction n generalizing e with
  | zero => rfl
  | succ n ih => simp [Env.answers, ih]

/-- Answers the environment has placed on `DATA` are taken in order. -/
theorem answers_placed (bits rest : List Bool) (e : Env) (h : e.dataIn = bits ++ rest) :
    e.answers .data bits.length = (bits, { e with dataIn := rest }) := by
  induction bits generalizing e with
  | nil => cases e; simp_all [Env.answers]
  | cons b bits ih =>
    have ha : e.answer .data = (b, { e with dataIn := bits ++ rest }) := by
      simp [Env.answer, h]
    simp only [List.length_cons, Env.answers, ha]
    rw [ih _ rfl]

/-- With nothing placed, every answer on `DATA` is a free value. -/
theorem answers_free (n : Nat) (e : Env) (h : e.dataIn = []) :
    e.answers .data n =
      ((List.range n).map (fun k => Config.freeLevel .data (e.freeReads + k)), { e with freeReads := e.freeReads + n }) := by
  induction n generalizing e with
  | zero => rfl
  | succ n ih =>
    have ha : e.answer .data = (Config.freeLevel .data e.freeReads, { e with freeReads := e.freeReads + 1 }) := by
      simp [Env.answer, h]
    simp only [Env.answers, ha, ih { e with freeReads := e.freeReads + 1 } h, List.range_succ_eq_map, List.map_cons,
      List.map_map]
    simp only [Nat.add_zero, Nat.add_assoc, Nat.add_comm 1]
    congr 2

/-- What a read of an undriven line answers (R34). -/
theorem sampleLine_undriven {s : State} {p : Pin} (h : s.oe.get p = false) : sampleLine s p = s.env.answer p := by
  simp [sampleLine, driven, h]

/-- What a read of a driven line answers (R17). -/
theorem sampleLine_driven {s : State} {p : Pin} (h : s.oe.get p = true) : sampleLine s p = (s.o.get p, s.env) := by
  simp [sampleLine, driven, h]

/-! ### The clock pulse (R71) -/

theorem runActions_clkPulse (s : State) :
    runActions (clkPulse false false) s = { s with o := { s.o with clk := false }, trace := s.trace ++ pulseTrace } := by
  apply State.eq_of_fields <;>
    simp [clkPulse, plain, runActions, runAction, shiftIf, runOp, pinWr, pinDelay, pulseTrace]

/-! ### INIT (R70) -/

theorem runActions_init (s : State) :
    runActions initActions s =
      { s with
        oe := ⟨false, true, false, true⟩
        o := { s.o with clk := false, data := true, wren := false }
        trace := s.trace ++ initTrace } := by
  apply State.eq_of_fields <;>
    simp [initActions, plain, runActions, runAction, shiftIf, runOp, pinWr, pinDir, initTrace]

/-! ### The transmit (R80) -/

/-- One bit: `SR[24]` on `DATA`, a pulse, a shift. -/
theorem runActions_txBit (s : State) :
    runActions txBit s =
      { s with
        sr := s.sr <<< 1
        o := { s.o with data := s.sr.getLsbD 24, clk := false }
        trace := s.trace ++ .wr .data (s.sr.getLsbD 24) :: pulseTrace } := by
  apply State.eq_of_fields <;>
    simp [txBit, clkPulse, plain, runActions, runAction, shiftIf, shiftSr, runOp, pinWr, pinDelay, pulseTrace]

/-- `n` bits of a word: its `n` highest bits in order, `SR` shifted `n` times. -/
theorem runActions_txBits (n : Nat) (s : State) (hn : n ≤ 25) :
    ∃ o : PinBits, o.most = s.o.most ∧ o.wren = s.o.wren ∧ (0 < n → o.clk = false) ∧
      runActions (List.replicate n txBit).flatten s =
        { s with
          sr := s.sr <<< n
          o := o
          trace := s.trace ++ (List.range n).flatMap (fun k => .wr .data (s.sr.getLsbD (24 - k)) :: pulseTrace) } := by
  induction n generalizing s with
  | zero => exact ⟨s.o, rfl, rfl, by simp, by apply State.eq_of_fields <;> simp [runActions]⟩
  | succ n ih =>
    obtain ⟨o, hm, hw, hc, h⟩ := ih (runActions txBit s) (by omega)
    refine ⟨o, by simpa [runActions_txBit] using hm, by simpa [runActions_txBit] using hw, fun _ => ?_, ?_⟩
    · rcases Nat.eq_zero_or_pos n with rfl | hn
      · have := congrArg (fun t => t.o.clk) h
        simpa [runActions, runActions_txBit] using this.symm
      · exact hc hn
    rw [List.replicate_succ, List.flatten_cons, runActions_append, h, runActions_txBit]
    apply State.eq_of_fields <;> try rfl
    · simp only [BitVec.shiftLeft_add, Nat.add_comm n 1]
    · simp only [List.range_succ_eq_map, List.flatMap_cons, List.flatMap_map, Nat.sub_zero, List.append_assoc,
        List.cons_append]
      congr 3
      refine List.flatMap_congr ?_
      intro k hk
      have hk : k < n := List.mem_range.mp hk
      have : (s.sr <<< 1).getLsbD (24 - k) = s.sr.getLsbD (24 - (k + 1)) := by
        rw [BitVec.getLsbD_shiftLeft]
        have h1 : 24 - k < 25 := by omega
        have h2 : ¬ 24 - k < 1 := by omega
        simp [h1, h2, Nat.sub_sub]
      simp [this]

/-- The whole transmit, from any state and any pins: 25 bits MSB first, `SR` = 0 after, `DATA` released and its latch high,
`WREN` and `CLK` low. -/
theorem runActions_tx25 (s : State) :
    runActions tx25 s =
      { s with
        sr := 0
        oe := { s.oe with data := false }
        o := { s.o with clk := false, data := true, wren := false }
        trace := s.trace ++ txTrace s.sr } := by
  have hbits : (bitsOfWord s.sr).flatMap (fun b => .wr .data b :: pulseTrace) =
      (List.range 25).flatMap (fun k => .wr .data (s.sr.getLsbD (24 - k)) :: pulseTrace) := by
    rw [bitsOfWord, List.flatMap_map]
  obtain ⟨o, hm, hw, hc, h⟩ := runActions_txBits 25 (runActions [plain (.wr .wren true), plain (.dir .data .out)] s)
    (le_refl _)
  rw [tx25, runActions_append, runActions_append, h]
  apply State.eq_of_fields <;>
    simp [plain, runActions, runAction, shiftIf, runOp, pinWr, pinDir, txTrace, hbits, hm, hc]

/-! ### The receive (R82) -/

/-- One further bit: shift, a pulse, a sample into bit 0. -/
theorem runActions_rxBit (s : State) (h : s.oe.data = false) :
    runActions rxBit s =
      { s with
        sr := (s.sr <<< 1) ||| (BitVec.ofBool (s.env.answer .data).1).setWidth 25
        o := { s.o with clk := false }
        env := (s.env.answer .data).2
        trace := s.trace ++ (pulseTrace ++ [.rd .data (s.env.answer .data).1]) } := by
  apply State.eq_of_fields <;>
    simp [rxBit, clkPulse, plain, runActions, runAction, shiftIf, shiftSr, insertSr, runOp, pinWr, pinDelay, pinRd,
      sampleLine, driven, h, pulseTrace]

/-- `n` further bits. -/
theorem runActions_rxBits (n : Nat) (s : State) (h : s.oe.data = false) :
    runActions (List.replicate n rxBit).flatten s =
      { s with
        sr := (s.env.answers .data n).1.foldl (fun w b => (w <<< 1) ||| (BitVec.ofBool b).setWidth 25) s.sr
        o := if n = 0 then s.o else { s.o with clk := false }
        env := (s.env.answers .data n).2
        trace := s.trace ++ (s.env.answers .data n).1.flatMap (fun b => pulseTrace ++ [.rd .data b]) } := by
  induction n generalizing s with
  | zero => apply State.eq_of_fields <;> simp [runActions, Env.answers]
  | succ n ih =>
    have h' : (runActions rxBit s).oe.data = false := by rw [runActions_rxBit s h]; exact h
    rw [List.replicate_succ, List.flatten_cons, runActions_append, ih _ h', runActions_rxBit s h]
    apply State.eq_of_fields <;> simp [Env.answers, List.append_assoc]

/-- The whole receive, from any state in which the block does not drive `DATA`: 25 answers MSB first, `WREN` and `CLK` low. -/
theorem runActions_rx25 (s : State) (h : s.oe.data = false) :
    runActions rx25 s =
      { s with
        sr := wordOfBits (s.env.answers .data 25).1
        o := { s.o with clk := false, wren := false }
        env := (s.env.answers .data 25).2
        trace := s.trace ++ rxTrace (s.env.answers .data 25).1 } := by
  rw [rx25, runActions_append, runActions_rxBits 24]
  · apply State.eq_of_fields <;>
      simp [plain, runActions, runAction, shiftIf, runOp, pinWr, pinDelay, pinRd, sampleLine, driven, h, Env.answers,
        rxTrace, wordOfBits]
  · simp [plain, runActions, runAction, shiftIf, runOp, pinWr, pinDelay, pinRd, sampleLine, driven, h]

/-! ### What no action touches -/

/-- An action writes no flag, no latch of the command, no step index, no constant, no port signal (R10, R14). -/
theorem runAction_frame (a : Action) (s : State) :
    (runAction a s).cmdl = s.cmdl ∧ (runAction a s).upc = s.upc ∧ (runAction a s).busy = s.busy ∧
      (runAction a s).configured = s.configured ∧ (runAction a s).params = s.params ∧ (runAction a s).port = s.port ∧
      (runAction a s).pace = s.pace := by
  obtain ⟨b, op, c⟩ := a
  cases b <;> cases c <;> cases op <;>
    simp [runAction, shiftIf, shiftSr, insertSr, runOp, pinDir, pinWr, pinRd, pinDelay]

/-- The same of a list of actions. -/
theorem runActions_frame (as : List Action) (s : State) :
    (runActions as s).cmdl = s.cmdl ∧ (runActions as s).upc = s.upc ∧ (runActions as s).busy = s.busy ∧
      (runActions as s).configured = s.configured ∧ (runActions as s).params = s.params ∧ (runActions as s).port = s.port ∧
      (runActions as s).pace = s.pace := by
  induction as generalizing s with
  | nil => exact ⟨rfl, rfl, rfl, rfl, rfl, rfl, rfl⟩
  | cons a as ih =>
    obtain ⟨h1, h2, h3, h4, h5, h6, h7⟩ := runAction_frame a s
    simpa [runActions, h1, h2, h3, h4, h5, h6, h7] using ih (runAction a s)

/-- Every action adds exactly one entry to the trace (R7). -/
theorem runAction_trace (a : Action) (s : State) : ∃ x, (runAction a s).trace = s.trace ++ [x] := by
  obtain ⟨b, op, c⟩ := a
  cases b <;> cases c <;> cases op <;>
    simp [runAction, shiftIf, shiftSr, insertSr, runOp, pinDir, pinWr, pinRd, pinDelay]

/-! ### Accept and the end of a command -/

/-- When `whenReady` answers a next state, the block was idle and configured, and the state is the continuation's. -/
theorem whenReady_next {s t : State} {k : State → State} (h : whenReady s k = .next t) :
    s.busy = false ∧ s.configured = true ∧ t = k s := by
  unfold whenReady at h
  split at h <;> try split at h
  all_goals simp_all

/-- When `whenIdle` answers a next state, the block was idle, and the state is the continuation's. -/
theorem whenIdle_next {s t : State} {k : State → State} (h : whenIdle s k = .next t) : s.busy = false ∧ t = k s := by
  unfold whenIdle at h
  split at h
  all_goals simp_all

theorem whenReady_of_ready {s : State} (k : State → State) (h : Ready s) : whenReady s k = .next (k s) := by
  simp [whenReady, h.1, h.2]

theorem whenIdle_of_idle {s : State} (k : State → State) (h : s.busy = false) : whenIdle s k = .next (k s) := by
  simp [whenIdle, h]

theorem runFinal_frame (f : Final) (s : State) :
    (runFinal f s).sr = s.sr ∧ (runFinal f s).cmdl = s.cmdl ∧ (runFinal f s).upc = s.upc ∧ (runFinal f s).oe = s.oe ∧
      (runFinal f s).o = s.o ∧ (runFinal f s).params = s.params ∧ (runFinal f s).port = s.port ∧
      (runFinal f s).env = s.env ∧ (runFinal f s).trace = s.trace ∧ (runFinal f s).pace = s.pace := by
  cases f <;> simp [runFinal]

/-- A plan with an empty list changes nothing (R15). -/
theorem runPlan_empty (l : Option Word25) (f : Final) (s : State) : runPlan ⟨l, [], f⟩ s = s := by
  simp [runPlan]

/-- Sending a word (R80, R81), from any state. -/
theorem runPlan_transmit (w : Word25) (s : State) : runPlan (planTransmit w) s = transmitted w s := by
  have hne : tx25 ≠ [] := by decide
  apply State.eq_of_fields <;>
    simp [runPlan, planTransmit, hne, finishPlan, runFinal, startPlan, loadSr, runActions_tx25, tx25_length, transmitted]

/-- A receive with its final writes (R82, R83, R100), from any state in which the block does not drive `DATA`. -/
theorem runPlan_receive (f : Final) (s : State) (h : s.oe.data = false) :
    runPlan ⟨none, rx25, f⟩ s = (runFinal f (received s)).setBusy false := by
  have hne : rx25 ≠ [] := by decide
  cases f <;> apply State.eq_of_fields <;>
    simp [runPlan, hne, finishPlan, runFinal, startPlan, loadSr, runActions_rx25, rx25_length, received, h]

/-- `INIT` (R70), from any state. -/
theorem runPlan_init (s : State) : runPlan planInit s = initialised s := by
  have hne : initActions ≠ [] := by decide
  apply State.eq_of_fields <;>
    simp [runPlan, planInit, hne, finishPlan, runFinal, startPlan, loadSr, runActions_init, initActions_length, initialised]

/-- The end state of a receive, to rewrite with: unfolding it by `rfl` makes Lean evaluate the 25 answers. -/
theorem received_eq (s : State) :
    received s =
      { s with
        sr := wordOfBits (s.env.answers .data 25).1, upc := 101, busy := false
        o := { s.o with clk := false, wren := false }
        env := (s.env.answers .data 25).2
        trace := s.trace ++ rxTrace (s.env.answers .data 25).1 } := rfl

/-- The latched command word takes no part in a receive. -/
theorem received_setCmdl (s : State) (c : CmdWord) : received (s.setCmdl c) = (received s).setCmdl c := by
  rw [received_eq, received_eq s]
  simp only [State.setCmdl]

/-- The latched command word takes no part in a transmit. -/
theorem transmitted_setCmdl (w : Word25) (s : State) (c : CmdWord) :
    transmitted w (s.setCmdl c) = (transmitted w s).setCmdl c := by
  unfold transmitted
  simp only [State.setCmdl]

end Sys2Proof.Machine
end

