-- ==== Sys2Proof/Laws/PerInstr.lean ====
section
/-! SUPPORT. For every instruction, as syntax: its encoded word lies in its row of spec/opcode_table.json (the row's `mask`
and `match`). -/

namespace Sys2Proof.Laws.TableRow

/-- The `mask` of the instruction's row. -/
def rowMask : Instr → Nat
  | .init _ => 0xE000000
  | .write _ => 0xE000000
  | .read _ => 0xE000000
  | .preset _ _ _ => 0xE000000
  | .search _ _ _ _ => 0xE000000
  | .getpll _ => 0xE000000
  | .isstereo _ => 0xE000000
  | .reservedOp7 _ => 0xE000000
  | .cw25PresetFm _ _ => 0x1F00000
  | .cw25PresetAm _ _ => 0x1F00000
  | .cw25Search _ _ _ _ => 0x101FFFF
  | .sw25Status _ _ => 0x0000000

/-- The `match` of the instruction's row. -/
def rowMatch : Instr → Nat
  | .init _ => 0x0000000
  | .write _ => 0x2000000
  | .read _ => 0x4000000
  | .preset _ _ _ => 0x6000000
  | .search _ _ _ _ => 0x8000000
  | .getpll _ => 0xA000000
  | .isstereo _ => 0xC000000
  | .reservedOp7 _ => 0xE000000
  | .cw25PresetFm _ _ => 0x0000000
  | .cw25PresetAm _ _ => 0x0400000
  | .cw25Search _ _ _ _ => 0x1000000
  | .sw25Status _ _ => 0x0000000

/-- The encoded word of `i` lies in `i`'s row. -/
def Statement (i : Instr) : Prop :=
  match encode i with
  | .cmd28 w => w &&& BitVec.ofNat 28 (rowMask i) = BitVec.ofNat 28 (rowMatch i)
  | .cw25 w => w &&& BitVec.ofNat 25 (rowMask i) = BitVec.ofNat 25 (rowMatch i)
  | .sw25 w => w &&& BitVec.ofNat 25 (rowMask i) = BitVec.ofNat 25 (rowMatch i)

theorem cmdWord_and (op m : BitVec 3) (x y : BitVec 25) : cmdWord op x &&& cmdWord m y = cmdWord (op &&& m) (x &&& y) :=
  BitVec.and_append

theorem controlWord_and (s d b s' d' b' : BitVec 1) (l l' : BitVec 2) (c c' : BitVec 3) (p p' : BitVec 17) :
    controlWord s d b l c p &&& controlWord s' d' b' l' c' p' =
      controlWord (s &&& s') (d &&& d') (b &&& b') (l &&& l') (c &&& c') (p &&& p') := by
  refine BitVec.and_append.trans (congrArg (· ++ (p &&& p')) ?_)
  refine BitVec.and_append.trans (congrArg (· ++ (c &&& c')) ?_)
  refine BitVec.and_append.trans (congrArg (· ++ (l &&& l')) ?_)
  exact BitVec.and_append.trans (congrArg (· ++ (b &&& b')) BitVec.and_append)

/-- `OP` is what the mask of a command row keeps. -/
theorem commandRow (op : BitVec 3) (x : BitVec 25) (m r : Nat) (hm : BitVec.ofNat 28 m = cmdWord 7 0)
    (hr : cmdWord op 0 = BitVec.ofNat 28 r) : cmdWord op x &&& BitVec.ofNat 28 m = BitVec.ofNat 28 r := by
  have h7 : op &&& 7 = op := by clear hr; revert op; decide
  rw [hm, cmdWord_and, h7, ← hr]
  congr 1
  exact BitVec.and_zero

/-- `S`, `D`, `B`, `L` are what the mask of a preset row keeps. -/
theorem presetRow (b : BitVec 1) (c : BitVec 3) (p : BitVec 17) (m r : Nat) (hm : BitVec.ofNat 25 m = controlWord 1 1 1 3 0 0)
    (hr : controlWord 0 0 b 0 0 0 = BitVec.ofNat 25 r) :
    controlWord 0 0 b 0 c p &&& BitVec.ofNat 25 m = BitVec.ofNat 25 r := by
  have hb : b &&& 1 = b := by clear hr; revert b; decide
  rw [hm, controlWord_and, hb, ← hr]
  congr 1 <;> exact BitVec.and_zero

/-- `S` and `P` are what the mask of the search row keeps. -/
theorem searchRow (d b : BitVec 1) (l : BitVec 2) (c : BitVec 3) (m r : Nat)
    (hm : BitVec.ofNat 25 m = controlWord 1 0 0 0 0 0x1FFFF) (hr : controlWord 1 0 0 0 0 0 = BitVec.ofNat 25 r) :
    controlWord 1 d b l c 0 &&& BitVec.ofNat 25 m = BitVec.ofNat 25 r := by
  rw [hm, controlWord_and, ← hr]
  congr 1 <;> exact BitVec.and_zero

theorem init (x : BitVec 25) : Statement (.init x) := commandRow 0 x 0xE000000 0x0000000 (by decide) (by decide)
theorem write (d : Word25) : Statement (.write d) := commandRow 1 d 0xE000000 0x2000000 (by decide) (by decide)
theorem read (x : BitVec 25) : Statement (.read x) := commandRow 2 x 0xE000000 0x4000000 (by decide) (by decide)
theorem preset (x : BitVec 7) (band : Band) (freq : BitVec 16) : Statement (.preset x band freq) :=
  commandRow 3 (presetPayload x band freq) 0xE000000 0x6000000 (by decide) (by decide)
theorem search (x : BitVec 18) (dir : Direction) (level : Level) (band : Band) : Statement (.search x dir level band) :=
  commandRow 4 (searchPayload x dir level band) 0xE000000 0x8000000 (by decide) (by decide)
theorem getpll (x : BitVec 25) : Statement (.getpll x) := commandRow 5 x 0xE000000 0xA000000 (by decide) (by decide)
theorem isstereo (x : BitVec 25) : Statement (.isstereo x) := commandRow 6 x 0xE000000 0xC000000 (by decide) (by decide)
theorem reservedOp7 (x : BitVec 25) : Statement (.reservedOp7 x) := commandRow 7 x 0xE000000 0xE000000 (by decide) (by decide)
theorem cw25PresetFm (c : BitVec 3) (p : BitVec 17) : Statement (.cw25PresetFm c p) :=
  presetRow 0 c p 0x1F00000 0x0000000 (by decide) (by decide)
theorem cw25PresetAm (c : BitVec 3) (p : BitVec 17) : Statement (.cw25PresetAm c p) :=
  presetRow 1 c p 0x1F00000 0x0400000 (by decide) (by decide)
theorem cw25Search (d b : BitVec 1) (l : BitVec 2) (c : BitVec 3) : Statement (.cw25Search d b l c) :=
  searchRow d b l c 0x101FFFF 0x1000000 (by decide) (by decide)
theorem sw25Status (x : BitVec 8) (p : BitVec 17) : Statement (.sw25Status x p) := BitVec.and_zero

end Sys2Proof.Laws.TableRow
end

