-- ==== Sys2Proof/Laws/Step.lean ====
section
/-! SUPPORT. What a step can do, said once, and how runs of the machine unfold. -/

namespace Sys2Proof.Machine

open Sys2Proof.Safety

/-- Everything a step that answers a next state can have been. -/
theorem step_cases {s t : State} (h : step s = .next t) :
    (s.port.rst = true ∧ t = takeReset s) ∨
    (s.port.rst = false ∧ s.busy = true ∧ busyStep s = .next t) ∨
    (s.port.rst = false ∧ s.busy = false ∧ s.port.cmdValid = true ∧ s.pace = .whole ∧
      exec (presentedCommand s) (dropCommand s) = .next t) ∨
    (s.port.rst = false ∧ s.busy = false ∧ s.port.cmdValid = true ∧ s.pace = .single ∧ acceptStep s = .next t) ∨
    (s.port.rst = false ∧ s.busy = false ∧ s.port.cmdValid = false ∧ t = hostMove s) := by
  unfold step at h
  cases hr : s.port.rst <;> cases hb : s.busy <;> cases hv : s.port.cmdValid <;> cases hp : s.pace <;> simp_all

/-- Everything a single step of a running plan that answers a next state can have been (R14). -/
theorem stepPlan_cases {pl : Plan} {s t : State} (h : stepPlan pl s = .next t) :
    ∃ a, pl.acts[s.upc.toNat]? = some a ∧
      ((s.upc.toNat + 1 = pl.acts.length ∧ t = finishPlan pl (runAction a s)) ∨
        (s.upc.toNat + 1 ≠ pl.acts.length ∧ t = (runAction a s).setUpc (s.upc + 1))) := by
  unfold stepPlan at h
  split at h
  · rename_i a ha
    refine ⟨a, ha, ?_⟩
    split at h
    · rename_i hl
      exact Or.inl ⟨hl, by simpa using h.symm⟩
    · rename_i hl
      exact Or.inr ⟨hl, by simpa using h.symm⟩
  · cases h

/-- A busy step that answers a next state is a step of the plan of the latched command. -/
theorem busyStep_cases {s t : State} (h : busyStep s = .next t) :
    ∃ pl, planOf s.params (latchedCommand s) = some pl ∧ stepPlan pl (dropCommand s) = .next t := by
  unfold busyStep at h
  split at h
  · rename_i pl hp
    exact ⟨pl, hp, h⟩
  · cases h

/-- A run of `k + 1` steps whose first step answers `t` is the run of `k` steps from `t`. -/
theorem run_of_next {s t : State} (k : Nat) (h : step s = .next t) :
    Host.Core.run Sys2Proof.core (k + 1) s = Host.Core.run Sys2Proof.core k t := by
  show Host.Core.run Sys2Proof.core (k + 1) (s : Sys2Proof.core.State) = _
  have h' : Sys2Proof.core.step s = .next t := h
  simp only [Host.Core.run, h']

theorem run_of_refused {s : State} {r : Refusal} (k : Nat) (h : step s = .refused r) :
    Host.Core.run Sys2Proof.core (k + 1) s = .refused r := by
  show Host.Core.run Sys2Proof.core (k + 1) (s : Sys2Proof.core.State) = _
  have h' : Sys2Proof.core.step s = .refused r := h
  simp only [Host.Core.run, h']

theorem run_zero (s : State) : Host.Core.run Sys2Proof.core 0 s = .next s := rfl

/-- What a command's plan is, by the kind of its list. -/
theorem planOf_by_kind (params : Params) (i : Instr) :
    (listKind i = .init → planOf params i = some planInit) ∧
    (listKind i = .transmit → ∃ w, planOf params i = some (planTransmit w)) ∧
    (listKind i = .receive → ∃ f, (f = .resFromSr ∨ f = .resFromSrMasked) ∧ planOf params i = some ⟨none, rx25, f⟩) ∧
    (listKind i = .stereo → planOf params i = some planIsstereo) ∧
    (listKind i = .none → planOf params i = none ∨ planOf params i = some ⟨none, [], .nothing⟩) := by
  cases i with
  | preset x b f => cases b <;> simp [listKind, planOf, planPreset, packPreset]
  | write d =>
    exact ⟨by simp [listKind], fun _ => ⟨_, rfl⟩, by simp [listKind], by simp [listKind], by simp [listKind]⟩
  | search x d l b =>
    exact ⟨by simp [listKind], fun _ => ⟨_, rfl⟩, by simp [listKind], by simp [listKind], by simp [listKind]⟩
  | _ => simp [listKind, planOf, planRead, planGetpll]

end Sys2Proof.Machine
end

