-- ==== Sys2Proof/Tests/Slice0.lean ====
section
/-! SUPPORT. Tests with expected results from 95_test_vectors.md (the section is named at each), the smoke test of
`WellFormed`, and a witness for the hypotheses of every statement. -/

namespace Sys2Proof.Tests

-- One theorem after another: fewer threads, less memory.
set_option Elab.async false

open Sys2Proof Sys2Proof.Machine Sys2Proof.Safety

/-! ### Helpers -/

/-- A small state: the given mask, level table and answers, idle pins. -/
def idleWith (mask : Word25) (levels : LevelTable) (dataIn mostIn : List Bool) : State :=
  bootIdle { State.reset with params := ⟨mask, levels, ⟨0, 1, 2, 3⟩⟩, env := ⟨dataIn, mostIn, 0⟩ }

/-- The idle state with the mask `0x00A0000` of 95_test_vectors.md and the spec's default level table (D8). -/
def idle : State := idleWith 0x00A0000 .c123 [] []

/-- The state after reset with the constants of `idle`. -/
def fresh : State := { State.reset with params := idle.params }

/-- A `WRITE 0x1555555` with `upc` actions done: pins as R80 makes them. -/
def writing (upc : BitVec 7) (oeData : Bool) (o : PinBits) : State :=
  { idle with cmdl := 0x3555555, upc := upc, busy := true, oe := ⟨false, true, oeData, true⟩, o := o, sr := 0x1555555 }

/-- `s` with a command presented. -/
def presenting (c : CmdWord) (s : State) : State := { s with port := ⟨false, c, true, []⟩ }

def nextOf : Host.Outcome State Fault Refusal → Option State
  | .next s => some s
  | _ => none

def refusalOf : Host.Outcome State Fault Refusal → Option Refusal
  | .refused r => some r
  | _ => none

/-- The `DATA` levels written, as in the tables of 2.3 (the last one is the idle level). -/
def levelsOf (o : Host.Outcome State Fault Refusal) : Option (List Bool) := (nextOf o).map fun t => dataLevels t.trace

def resOf (o : Host.Outcome State Fault Refusal) : Option Word25 := (nextOf o).map fun t => t.res

/-! ### WellFormed: an ill-formed term for each check -/

/-- R63: `OP` = `111` has no meaning. -/
theorem test_wf_refuses_reserved_op : (Instr.reservedOp7 0).wellFormed = false := by decide

/-- R62: 8849 is not a multiple of 8; 848 would be the divider of a negative frequency. -/
theorem test_wf_refuses_fm_divider :
    (Instr.cw25PresetFm 5 8849).wellFormed = false ∧ (Instr.cw25PresetFm 5 848).wellFormed = false ∧
    (Instr.cw25PresetFm 5 8848).wellFormed = true := by decide

/-- R62: 1451 is not a multiple of 10; 440 would be the divider of a negative frequency. -/
theorem test_wf_refuses_am_divider :
    (Instr.cw25PresetAm 5 1451).wellFormed = false ∧ (Instr.cw25PresetAm 5 440).wellFormed = false ∧
    (Instr.cw25PresetAm 5 1450).wellFormed = true := by decide

/-! ### Encodings: words of 2.10, field by field (R51, R58, R59) -/

/-- 2.10: the seven commands, the word written as `OP` and payload bits. -/
theorem test_decode_commands :
    decode (.cmd28 0b000_0000000000000000000000000) = .ok (.init 0) ∧
    decode (.cmd28 0b001_1010101010101010101010101) = .ok (.write 0x1555555) ∧
    decode (.cmd28 0b010_0000000000000000000000000) = .ok (.read 0) ∧
    decode (.cmd28 0b011_0000000_01_0000000001100100) = .ok (.preset 0 .am 100) ∧
    decode (.cmd28 0b100_000000000000000000_10_100_00) = .ok (.search 0 .down .l4 .fm) ∧
    decode (.cmd28 0b101_0000000000000000000000000) = .ok (.getpll 0) ∧
    decode (.cmd28 0b110_0000000000000000000000000) = .ok (.isstereo 0) ∧
    decode (.cmd28 0b111_0000000000000000000000000) = .ok (.reservedOp7 0) := by decide

/-- 2.10: words from assembly. -/
theorem test_encode_commands :
    encode (.preset 0 .fm 999) = .cmd28 0x60003E7 ∧ encode (.preset 0 .outside2 999) = .cmd28 0x60203E7 ∧
    encode (.search 0 .none .l1 .fm) = .cmd28 0x8000004 ∧ encode (.search 0 .up .l3 .am) = .cmd28 0x800002D ∧
    encode (.search 0 .outside3 .outside7 .outside3) = .cmd28 0x800007F ∧ encode (.isstereo 0) = .cmd28 0xC000000 := by
  decide

/-- The three shapes of a control word and a status word (R51, R58, 2.5, 2.6, 2.7); a bit of `D` beside a clear `S` is none. -/
theorem test_decode_wire_words :
    decode (.cw25 0b0_0_0_00_101_00010001010010000) = .ok (.cw25PresetFm 5 8848) ∧
    decode (.cw25 0b0_0_1_00_101_00000010110101010) = .ok (.cw25PresetAm 5 1450) ∧
    decode (.cw25 0b1_1_1_10_101_00000000000000000) = .ok (.cw25Search 1 1 2 5) ∧
    decode (.cw25 0b0_1_0_00_000_00000000000000000) = .error .noControlWordShape ∧
    decode (.sw25 0b11111111_00010001010010000) = .ok (.sw25Status 0xFF 8848) := by decide

/-- R5, R50: the host's numbering is the spec's; a bit above the format is refused. -/
theorem test_decode_table_words :
    decodeTableWord 32 0x60003E7 = some (.preset 0 .fm 999) ∧ decodeTableWord 28 0x3555555 = some (.write 0x1555555) ∧
    decodeTableWord 25 0x1EA0000 = some (.cw25Search 1 1 2 5) ∧ decodeTableWord 32 0x10000000 = none := by decide

/-! ### The packer -/

/-- 2.5: in range, a carry into the fields above, and a sum that loses bit 25. -/
theorem test_pack_preset :
    packPreset 0x00A0000 999 .fm = some 0x00A2290 ∧ packPreset 0x00A0000 100 .am = some 0x04A05AA ∧
    packPreset 0x00E0000 16277 .fm = some 0x0100000 ∧ packPreset 0x00A0000 65535 .am = some 0x05401B8 ∧
    packPreset 0x1FE0000 65535 .am = some 0x00801B8 ∧ packPreset 0x00A0000 999 .outside3 = none := by decide

/-- 2.6: combinations, defaults, and another level table. -/
theorem test_pack_search :
    packSearch .c123 0 .am .l3 .up = 0x1E00000 ∧ packSearch .c213 0 .am .l3 .up = 0x1D00000 ∧
    packSearch .c123 0x00A0000 .fm .l1 .none = 0x10A0000 ∧ packSearch .c123 0 .fm .l4 .down = 0x1300000 ∧
    packSearch .c123 0 .outside2 .outside0 .outside3 = 0x1000000 ∧
    packSearch .c123 0x00A0000 .outside3 .l4 .up = 0x1BA0000 := by decide

/-! ### Commands -/

/-- 2.1. -/
theorem test_init :
    (nextOf (exec (.init 0) fresh)).map (fun t => (t.trace, t.oe, t.o, t.configured)) =
      some ([.dir .most .inp, .dir .clk .out, .wr .clk false, .dir .data .inp, .wr .data true, .dir .wren .out,
        .wr .wren false], ⟨false, true, false, true⟩, ⟨fresh.o.most, false, true, false⟩, true) := by decide

/-- 2.3: `0x1555555`. -/
theorem test_write_levels :
    levelsOf (exec (.write 0x1555555) idle) =
      some [true, false, true, false, true, false, true, false, true, false, true, false, true, false, true, false, true,
        false, true, false, true, false, true, false, true, true] := by decide +kernel

/-- 2.3: 105 actions, `SR` = 0 after. -/
theorem test_write_length :
    (nextOf (exec (.write 0x0000001) idle)).map (fun t => (t.trace.length, t.sr)) = some (105, 0) := by decide +kernel

/-- 2.4, second last row. -/
theorem test_read :
    (nextOf (exec (.read 0) (idleWith 0 .c123 (bitsOfWord 0x1018000) []))).map (fun t => (t.res, t.trace.length)) =
      some (0x1018000, 102) := by decide +kernel

/-- 2.5: the word on the wire of `PRESET 999, FM`, mask `0x00A0000`: `0000010100010001010010000`. -/
theorem test_preset_levels :
    levelsOf (exec (.preset 0 .fm 999) idle) =
      some [false, false, false, false, false, true, false, true, false, false, false, true, false, false, false, true,
        false, true, false, false, true, false, false, false, false, true] := by decide +kernel

/-- 2.9: `PRESET 999, #2` is a no-op, not a refusal. -/
theorem test_preset_no_op :
    (nextOf (exec (.preset 0 .outside2 999) idle)).map (fun t => (t.trace, t.busy, t.cmdl)) = some ([], false, 0x60203E7) := by
  decide

/-- 2.6: the word on the wire of `SEARCH AM, 3, UP`, mask `0x00A0000`: `1111010100000000000000000`. -/
theorem test_search_levels :
    levelsOf (exec (.search 0 .up .l3 .am) idle) =
      some [true, true, true, true, false, true, false, true, false, false, false, false, false, false, false, false, false,
        false, false, false, false, false, false, false, false, true] := by decide +kernel

/-- 2.7, third row: the mask has 17 ones (C1). -/
theorem test_getpll_mask : resOf (exec (.getpll 0) (idleWith 0 .c123 (bitsOfWord 0x1018000) [])) = some 0x0018000 := by
  decide +kernel

/-- 2.8. -/
theorem test_isstereo :
    resOf (exec (.isstereo 0) (idleWith 0 .c123 [] [false])) = some 0x0000001 ∧
    resOf (exec (.isstereo 0) (idleWith 0 .c123 [] [true])) = some 0x0000000 := by decide

/-- 2.9. -/
theorem test_refusals :
    refusalOf (exec (.read 0) fresh) = some .notConfigured ∧ refusalOf (exec (.isstereo 0) fresh) = some .notConfigured ∧
    refusalOf (exec (.reservedOp7 0) idle) = some .reservedOp ∧
    refusalOf (exec (.getpll 0) (writing 50 true ⟨false, false, true, true⟩)) = some .busy := by decide

/-- The transfer of the search word `0x1EA0000` writes the levels of 2.3. -/
theorem test_wire_search_levels :
    levelsOf (exec (.cw25Search 1 1 2 5) idle) = levelsOf (exec (.write 0x1EA0000) idle) := by decide +kernel

/-- The transfers of the preset words `0x00A2290` and `0x04A05AA` (2.5) write their levels. -/
theorem test_wire_preset_levels :
    levelsOf (exec (.cw25PresetFm 5 8848) idle) = levelsOf (exec (.write 0x00A2290) idle) ∧
    levelsOf (exec (.cw25PresetAm 5 1450) idle) = levelsOf (exec (.write 0x04A05AA) idle) := by decide +kernel

/-- 2.4: the receive of `0x1FE2290` leaves it in `SR`. -/
theorem test_wire_status : (nextOf (exec (.sw25Status 0xFF 8848) idle)).map (fun t => t.sr) = some 0x1FE2290 := by
  decide +kernel

/-! ### Steps -/

/-- R15, 2.9: the word placed is what the next step runs; `INIT` runs from the reset state itself. -/
theorem test_placed_words_run :
    (nextOf (step (fresh.withFetchWord 32 0x0000000))).map (fun t => (t.configured, t.trace.length)) = some (true, 7) ∧
    (nextOf (step (fresh.withFetchWord 32 0x60203E7))).map (fun t => (t.configured, t.trace.length)) = some (true, 0) ∧
    refusalOf (step (fresh.withFetchWord 32 0xE000000)) = some .reservedOp := by decide

/-- R114, 2.9: a `GETPLL` presented to a `WRITE` at `UPC` = 50 is not accepted; the `WRITE` writes its next level. -/
theorem test_write_continues :
    (nextOf (step (presenting 0xA000000 (writing 50 true ⟨false, false, true, true⟩)))).map
        (fun t => (t.cmdl, t.upc, t.trace, t.port.cmdValid)) =
      some (0x3555555, 51, [.wr .data true], false) := by decide

/-- R80, R14: the last action of a transmit lowers `WREN` and ends the command. -/
theorem test_write_ends :
    (nextOf (step (writing 104 false ⟨false, false, true, true⟩))).map (fun t => (t.busy, t.upc, t.o.wren, t.trace)) =
      some (false, 104, false, [.wr .wren false]) := by decide

/-! ### Witnesses: every hypothesis of a statement is met -/

/-- EncodeInvertsDecode, one word a format. -/
theorem witness_decodes :
    decode (.cmd28 0xFFFFFFF) = .ok (.reservedOp7 0x1FFFFFF) ∧
    decode (.cw25 0x1FE0000) = .ok (.cw25Search 1 1 3 7) ∧
    decode (.sw25 0x1FFFFFF) = .ok (.sw25Status 0xFF 0x1FFFF) := by decide

/-- PinRdTakesTheEnvironmentsAnswer, the clauses of `DATA`: a placed level, none placed. -/
theorem witness_pinRd_data :
    (idleWith 0 .c123 [true] []).oe.data = false ∧ (idleWith 0 .c123 [true] []).env.dataIn = true :: [] ∧
    idle.oe.data = false ∧ idle.env.dataIn = [] := by decide

/-- … the clauses of `MOST`: a low and a high level placed, none placed. -/
theorem witness_pinRd_most :
    (idleWith 0 .c123 [] [false]).oe.most = false ∧ (idleWith 0 .c123 [] [false]).env.mostIn = false :: [] ∧
    (idleWith 0 .c123 [] [true, false]).env.mostIn = true :: [false] ∧
    idle.oe.most = false ∧ idle.env.mostIn = [] := by decide

/-- … the clause of `CLK` and `WREN`, which nothing drives before `INIT`. -/
theorem witness_pinRd_others : ∀ p ∈ [Pin.clk, Pin.wren], (p = .clk ∨ p = .wren) ∧ fresh.oe.get p = false := by decide

/-- InitPutsThePinsInTheIdleState: before and after a first `INIT`. -/
theorem witness_init : fresh.busy = false ∧ fresh.configured = false ∧ idle.busy = false ∧ idle.configured = true := by
  decide

/-- WriteTransmitsItsOperand, PresetTransmitsThePackedWord, SearchTransmitsThePackedWord, ControlWordsAreTransmitted,
StatusWordIsReceived, WriteThenReadReproducesTheWord. -/
theorem witness_ready : Ready idle ∧ idle.oe.data = false := by decide

/-- ReadReturnsTheSampledWord and GetpllReturnsTheLow17Bits. -/
theorem witness_read :
    Ready (idleWith 0 .c123 (bitsOfWord 0x1FE2290) []) ∧ (idleWith 0 .c123 (bitsOfWord 0x1FE2290) []).oe.data = false ∧
    (idleWith 0 .c123 (bitsOfWord 0x1FE2290) []).env.answers .data 25 = (bitsOfWord 0x1FE2290, ⟨[], [], 0⟩) := by
  decide

/-- ReceivedBitsAreMsbFirst, at both ends. -/
theorem witness_receivedBits :
    (bitsOfWord 0x1000001).length = 25 ∧ (wordOfBits (bitsOfWord 0x1000000)).getLsbD (24 - 0) = true ∧
    (wordOfBits (bitsOfWord 0x0000001)).getLsbD (24 - 24) = true ∧ 24 ≤ 24 := by decide

/-- IsstereoReturnsTheInvertedLevel, both levels. -/
theorem witness_isstereo :
    Ready (idleWith 0 .c123 [] [true]) ∧ (idleWith 0 .c123 [] [true]).oe.most = false ∧
    (idleWith 0 .c123 [] [true]).env.answer .most = (true, ⟨[], [], 0⟩) ∧
    (idleWith 0 .c123 [] [false]).env.answer .most = (false, ⟨[], [], 0⟩) := by decide

/-- PresetWithInvalidBandSendsNothing, both bands. -/
theorem witness_preset_no_op : ∀ b ∈ [Band.outside2, Band.outside3], Ready idle ∧ (b = .outside2 ∨ b = .outside3) := by
  decide

/-- SearchDefaultsInvalidCodes and the second clause of SearchTransmitsThePackedWord. -/
theorem witness_search_defaults :
    Ready idle ∧ Level.outside0 ∉ [Level.l1, Level.l2, Level.l3, Level.l4] ∧
    Level.outside5 ∉ [Level.l1, Level.l2, Level.l3, Level.l4] ∧ Level.l1 ∉ [Level.l2, Level.l3, Level.l4] ∧
    Direction.outside3 ≠ .up ∧ Band.outside2 ≠ .am := by decide

/-- ReservedOpIsRefused, the step's clause, in both granularities. -/
theorem witness_reserved :
    (presenting (cmdWord 7 5) idle).port.rst = false ∧ (presenting (cmdWord 7 5) idle).busy = false ∧
    (presenting (cmdWord 7 5) idle).port.cmdValid = true ∧ (presenting (cmdWord 7 5) idle).port.cmd = cmdWord 7 5 ∧
    refusalOf (step { presenting (cmdWord 7 5) idle with pace := .single }) = some .reservedOp := by decide

/-- NothingButInitBeforeInit. -/
theorem witness_before_init :
    fresh.busy = false ∧ fresh.configured = false ∧ (∀ x, Instr.read 0 ≠ .init x) ∧ ∀ x, Instr.read 0 ≠ .reservedOp7 x := by
  refine ⟨rfl, rfl, ?_, ?_⟩ <;> intro x <;> exact Instr.noConfusion

/-- NothingIsAcceptedWhileBusy. -/
theorem witness_busy :
    (writing 50 true ⟨false, false, true, true⟩).busy = true ∧ ∀ x, Instr.init 0 ≠ .reservedOp7 x := by
  refine ⟨rfl, ?_⟩; intro x; exact Instr.noConfusion

/-- InRangePresetWordFields, MaskIsInEveryPackedWord, PackedWordsAreTableWords: the ends of both ranges (2.5). -/
theorem witness_in_range :
    Nominal 0x00A0000 ∧ (0x00A0000#25).extractLsb' 0 17 = 0 ∧
    880 ≤ (880#16).toNat ∧ (1080#16).toNat ≤ 1080 ∧ 53 ≤ (53#16).toNat ∧ (170#16).toNat ≤ 170 ∧
    packPreset 0x00A0000 880 .fm = some 0x00A1ED8 ∧ packPreset 0x00A0000 1080 .fm = some 0x00A2518 ∧
    packPreset 0x00A0000 53 .am = some 0x04A03D4 ∧ packPreset 0x00A0000 170 .am = some 0x04A0866 := by decide

/-- SearchWordFields: nominal masks at both ends. -/
theorem witness_nominal : Nominal 0x0000000 ∧ Nominal 0x00E0000 := by decide

/-- TransmitCounts. -/
theorem witness_transmit_counts :
    Ready idle ∧ ∃ t, exec (.write 0x1555555) idle = .next t := ⟨by decide, _, rfl⟩

/-- ReceiveCounts. -/
theorem witness_receive_counts :
    Ready idle ∧ idle.oe.data = false ∧ ∃ t, exec (.read 0) idle = .next t := ⟨by decide, by decide, _, rfl⟩

/-- StepRunsThePresentedCommand, and SingleStepsMakeTheWholeCommand in the other granularity. -/
theorem witness_presented :
    (presenting 0x3555555 idle).port.rst = false ∧ (presenting 0x3555555 idle).busy = false ∧
    (presenting 0x3555555 idle).port.cmdValid = true ∧ (presenting 0x3555555 idle).pace = .whole ∧
    ({ presenting 0x3555555 idle with pace := .single } : State).pace = .single ∧
    listLength idle.params (decodeCmd28 0x3555555) = 105 := by decide

/-- PlacedCommandRunsAtOnce: the ends of the commands and of the words. -/
theorem witness_placed : (0x0000000 : Nat) < 0xE000000 ∧ (0xDFFFFFF : Nat) < 0xE000000 ∧ (0xFFFFFFF : Nat) < 2 ^ 28 := by
  decide

/-- ResetWins, over a running operation with a command presented. -/
theorem witness_reset :
    ({ writing 50 true ⟨false, false, true, true⟩ with port := ⟨true, 0, true, []⟩ } : State).port.rst = true := by decide

/-- IdleBlockWaits, both clauses. -/
theorem witness_idle :
    idle.port.rst = false ∧ idle.busy = false ∧ idle.port.cmdValid = false ∧ idle.port.program = [] ∧
    ({ idle with port := ⟨false, 0, false, [0xA000000]⟩ } : State).port.program = 0xA000000 :: [] := by decide

/-- RunningOperationIgnoresThePort. -/
theorem witness_running :
    (writing 50 true ⟨false, false, true, true⟩).port.rst = false ∧ (writing 50 true ⟨false, false, true, true⟩).busy = true ∧
    ∃ t, step (writing 50 true ⟨false, false, true, true⟩) = .next t := ⟨rfl, rfl, _, rfl⟩

/-- ProgramRunsItsCommandsInOrder: the first two commands of program 1 (3.), from the reset state. -/
theorem witness_program :
    fresh.busy = false ∧ fresh.pace = .whole ∧
    ({ fresh with port := ⟨false, 0, false, [0x0000000, 0x60003E7]⟩ } : State).port.program = [0x0000000, 0x60003E7] ∧
    ({ fresh with port := ⟨false, 0, false, [0x0000000, 0x60003E7]⟩ } : State).port.cmdValid = false := by decide

/-- The invariant of the sequencer holds idle, at both ends of a transmit, and in the middle of every other list
(StepKeepsTheSequencerInvariant, InvariantStatesNeverFault). -/
theorem witness_invariant :
    SequencerInv fresh ∧ SequencerInv idle ∧ SequencerInv (writing 0 false ⟨false, false, true, false⟩) ∧
    SequencerInv (writing 104 false ⟨false, false, true, true⟩) ∧
    SequencerInv { fresh with busy := true, upc := 3, oe := ⟨false, true, false, false⟩ } ∧
    SequencerInv { idle with busy := true, cmdl := 0, upc := 3 } ∧
    SequencerInv { idle with busy := true, cmdl := 0x4000000, upc := 7, o := ⟨false, true, true, false⟩ } ∧
    SequencerInv { idle with busy := true, cmdl := 0xC000000 } := by
  refine ⟨?_, ?_, ?_, ?_, ?_, ?_, ?_, ?_⟩ <;> refine ⟨fun h => ⟨?_, ?_⟩, fun h => ⟨?_, ?_, ?_, ?_, ?_⟩⟩ <;> revert h <;> decide

/-- … and these states have next states. -/
theorem witness_invariant_steps :
    (∃ t, step idle = .next t) ∧ (∃ t, step (writing 104 false ⟨false, false, true, true⟩) = .next t) ∧
    ∃ t, step (presenting 0x0000000 fresh) = .next t := ⟨⟨_, rfl⟩, ⟨_, rfl⟩, _, rfl⟩

/-- DataIsDrivenOnlyInWriteMode, at both ends of the time the line is driven. -/
theorem witness_driven :
    SequencerInv (writing 2 true ⟨false, false, true, true⟩) ∧ (writing 2 true ⟨false, false, true, true⟩).oe.data = true ∧
    SequencerInv (writing 102 true ⟨false, false, false, true⟩) ∧
    (writing 102 true ⟨false, false, false, true⟩).oe.data = true := by
  refine ⟨?_, rfl, ?_, rfl⟩ <;> refine ⟨fun h => ⟨?_, ?_⟩, fun h => ⟨?_, ?_, ?_, ?_, ?_⟩⟩ <;> revert h <;> decide

/-- CommandsAreTheirExpansions. -/
theorem witness_expansions :
    Ready idle ∧ idle.oe.data = false ∧ packPreset idle.params.configMask 999 .fm = some 0x00A2290 := by decide

/-- WrenIsHighOnlyInTransfers, at both ends of both times the line is high. -/
theorem witness_wren :
    (SequencerInv (writing 1 false ⟨false, false, true, true⟩) ∧
      driven (writing 1 false ⟨false, false, true, true⟩) .wren = some true) ∧
    (SequencerInv (writing 104 false ⟨false, false, true, true⟩) ∧
      driven (writing 104 false ⟨false, false, true, true⟩) .wren = some true) ∧
    (SequencerInv { idle with busy := true, cmdl := 0x4000000, upc := 2, o := ⟨false, false, true, true⟩ } ∧
      SequencerInv { idle with busy := true, cmdl := 0x4000000, upc := 3, o := ⟨false, false, true, true⟩ }) ∧
    idle.configured = true := by
  refine ⟨⟨?_, rfl⟩, ⟨?_, rfl⟩, ⟨?_, ?_⟩, rfl⟩ <;>
    refine ⟨fun h => ⟨?_, ?_⟩, fun h => ⟨?_, ?_, ?_, ?_, ?_⟩⟩ <;> revert h <;> decide

/-- StepKeepsTheConstants, ConfiguredIsClearedOnlyByReset (both clauses), TraceOnlyGrows. -/
theorem witness_configured :
    idle.port.rst = false ∧ idle.configured = true ∧ (∃ t, step idle = .next t ∧ t.configured = true) ∧
    fresh.configured = false ∧ ∃ t, step (presenting 0 fresh) = .next t ∧ t.configured = true :=
  ⟨rfl, rfl, ⟨_, rfl, rfl⟩, rfl, _, rfl, rfl⟩

/-- ResIsWrittenByQueriesOnly. -/
theorem witness_res :
    (∃ t, exec (.write 5) idle = .next t) ∧ (∀ x, Instr.write 5 ≠ .read x) ∧ (∀ x, Instr.write 5 ≠ .getpll x) ∧
    ∀ x, Instr.write 5 ≠ .isstereo x := by
  refine ⟨⟨_, rfl⟩, ?_, ?_, ?_⟩ <;> intro x <;> exact Instr.noConfusion

end Sys2Proof.Tests
end

/-! # Scope (00_scope.md): a host's program, the trace, an idle block

Two facts carry the proofs. A command reads and writes nothing of the host port, so it commutes with a write of the port
(`exec_quietPort`). A command that is not refused completes: it leaves the block idle, with what was observed before as the
beginning of the trace (`exec_outcome`). -/

namespace Sys2Proof.Machine

open Sys2Proof Sys2Proof.Safety

/-! ### No operation reads or writes the host port (R10, R59) -/

theorem runOp_setPort (op : PinOp) (s : State) (p : HostPort) : runOp op (s.setPort p) = (runOp op s).setPort p := by
  cases op <;> rfl

theorem shiftIf_setPort (b : Bool) (s : State) (p : HostPort) : shiftIf b (s.setPort p) = (shiftIf b s).setPort p := by
  cases b <;> rfl

theorem runAction_setPort (a : Action) (s : State) (p : HostPort) :
    runAction a (s.setPort p) = (runAction a s).setPort p := by
  simp only [runAction, shiftIf_setPort, runOp_setPort]

theorem runActions_setPort (as : List Action) (s : State) (p : HostPort) :
    runActions as (s.setPort p) = (runActions as s).setPort p := by
  induction as generalizing s with
  | nil => rfl
  | cons a as ih => simp only [runActions, runAction_setPort, ih]

theorem startPlan_setPort (pl : Plan) (s : State) (p : HostPort) :
    startPlan pl (s.setPort p) = (startPlan pl s).setPort p := by
  obtain ⟨load, acts, final⟩ := pl
  cases acts <;> cases load <;> rfl

theorem finishPlan_setPort (pl : Plan) (s : State) (p : HostPort) :
    finishPlan pl (s.setPort p) = (finishPlan pl s).setPort p := by
  obtain ⟨load, acts, final⟩ := pl
  cases final <;> rfl

theorem runPlan_setPort (pl : Plan) (s : State) (p : HostPort) : runPlan pl (s.setPort p) = (runPlan pl s).setPort p := by
  unfold runPlan
  split
  · rfl
  · rw [startPlan_setPort, runActions_setPort, ← finishPlan_setPort]
    rfl

theorem runCommand_setPort (w : CmdWord) (pl : Plan) (s : State) (p : HostPort) :
    runCommand w pl (s.setPort p) = (runCommand w pl s).setPort p :=
  runPlan_setPort pl (s.setCmdl w) p

theorem receiveWord_setPort (w : Word25) (s : State) (p : HostPort) :
    receiveWord w (s.setPort p) = (receiveWord w s).setPort p := by
  have h := runPlan_setPort planReceive (s.setEnv { s.env with dataIn := bitsOfWord w }) p
  exact congrArg (fun t => t.setEnv { t.env with dataIn := s.env.dataIn }) h

/-! ### … so an instruction does the same whatever the port holds -/

theorem whenIdle_quietPort {s : State} {k : State → State} (h : k (quietPort s) = quietPort (k s)) :
    whenIdle (quietPort s) k = quietOutcome (whenIdle s k) := by
  have hb : (quietPort s).busy = s.busy := rfl
  unfold whenIdle
  rw [hb, h]
  split <;> rfl

theorem whenReady_quietPort {s : State} {k : State → State} (h : k (quietPort s) = quietPort (k s)) :
    whenReady (quietPort s) k = quietOutcome (whenReady s k) := by
  have hb : (quietPort s).busy = s.busy := rfl
  have hc : (quietPort s).configured = s.configured := rfl
  unfold whenReady
  rw [hb, hc, h]
  split
  · rfl
  · split <;> rfl

/-- Up to the port, an instruction answers the same whatever the port holds. -/
theorem exec_quietPort (i : Instr) (s : State) : exec i (quietPort s) = quietOutcome (exec i s) := by
  cases i with
  | init x => exact whenIdle_quietPort (runCommand_setPort _ _ _ _)
  | reservedOp7 x => rfl
  | sw25Status x p => exact whenReady_quietPort (receiveWord_setPort _ _ _)
  | cw25PresetFm | cw25PresetAm | cw25Search => exact whenReady_quietPort (runPlan_setPort _ _ _)
  | write | read | preset | search | getpll | isstereo => exact whenReady_quietPort (runCommand_setPort _ _ _ _)

/-! ### An accepted command completes -/

/-- What holds between the states before and after an accepted instruction: the block is idle again (R14, R15), the constants
(R18, R19), the port and the granularity stay, and the trace has only grown (R7). -/
structure Completes (s t : State) : Prop where
  idle : t.busy = false
  params : t.params = s.params
  port : t.port = s.port
  pace : t.pace = s.pace
  trace : s.trace <+: t.trace

theorem runActions_trace_grows (as : List Action) (s : State) : s.trace <+: (runActions as s).trace := by
  induction as generalizing s with
  | nil => exact List.prefix_rfl
  | cons a as ih =>
    obtain ⟨x, hx⟩ := runAction_trace a s
    calc s.trace <+: s.trace ++ [x] := List.prefix_append _ _
      _ = (runAction a s).trace := hx.symm
      _ <+: (runActions as (runAction a s)).trace := ih _

theorem startPlan_frame (pl : Plan) (s : State) :
    (startPlan pl s).params = s.params ∧ (startPlan pl s).port = s.port ∧ (startPlan pl s).pace = s.pace ∧
      (startPlan pl s).trace = s.trace := by
  obtain ⟨load, acts, final⟩ := pl
  cases acts <;> cases load <;> exact ⟨rfl, rfl, rfl, rfl⟩

theorem finishPlan_frame (pl : Plan) (s : State) :
    (finishPlan pl s).params = s.params ∧ (finishPlan pl s).port = s.port ∧ (finishPlan pl s).pace = s.pace ∧
      (finishPlan pl s).trace = s.trace := by
  obtain ⟨-, -, -, -, -, hparams, hport, -, htrace, hpace⟩ := runFinal_frame pl.final s
  exact ⟨hparams, hport, hpace, htrace⟩

theorem runPlan_completes (pl : Plan) {s : State} (hb : s.busy = false) : Completes s (runPlan pl s) := by
  unfold runPlan
  split
  · exact ⟨hb, rfl, rfl, rfl, List.prefix_rfl⟩
  · obtain ⟨sparams, sport, space, strace⟩ := startPlan_frame pl s
    obtain ⟨-, -, -, -, aparams, aport, apace⟩ := runActions_frame pl.acts (startPlan pl s)
    obtain ⟨fparams, fport, fpace, ftrace⟩ := finishPlan_frame pl
      ((runActions pl.acts (startPlan pl s)).setUpc (BitVec.ofNat 7 (pl.acts.length - 1)))
    have htrace := runActions_trace_grows pl.acts (startPlan pl s)
    exact ⟨rfl, fparams.trans (aparams.trans sparams), fport.trans (aport.trans sport), fpace.trans (apace.trans space),
      ftrace ▸ strace ▸ htrace⟩

theorem runCommand_completes (w : CmdWord) (pl : Plan) {s : State} (hb : s.busy = false) :
    Completes s (runCommand w pl s) := by
  obtain ⟨idle, params, port, pace, trace⟩ := runPlan_completes pl (s := s.setCmdl w) hb
  exact ⟨idle, params, port, pace, trace⟩

/-- The answers the environment has placed take no part in it. -/
theorem Completes.setEnv {s t : State} {e : Env} (h : Completes (s.setEnv e) t) (e' : Env) :
    Completes s (t.setEnv e') := by
  obtain ⟨idle, params, port, pace, trace⟩ := h
  exact ⟨idle, params, port, pace, trace⟩

theorem receiveWord_completes (w : Word25) {s : State} (hb : s.busy = false) : Completes s (receiveWord w s) :=
  (runPlan_completes planReceive (s := s.setEnv { s.env with dataIn := bitsOfWord w }) hb).setEnv _

theorem whenIdle_outcome {s : State} {k : State → State} (hk : s.busy = false → Completes s (k s)) :
    (∃ r, whenIdle s k = .refused r) ∨ ∃ t, whenIdle s k = .next t ∧ Completes s t := by
  cases hb : s.busy with
  | true => exact .inl ⟨.busy, by simp [whenIdle, hb]⟩
  | false => exact .inr ⟨k s, whenIdle_of_idle k hb, hk hb⟩

theorem whenReady_outcome {s : State} {k : State → State} (hk : s.busy = false → Completes s (k s)) :
    (∃ r, whenReady s k = .refused r) ∨ ∃ t, whenReady s k = .next t ∧ Completes s t := by
  cases hb : s.busy with
  | true => exact .inl ⟨.busy, by simp [whenReady, hb]⟩
  | false =>
    cases hc : s.configured with
    | true => exact .inr ⟨k s, whenReady_of_ready k ⟨hb, hc⟩, hk hb⟩
    | false => exact .inl ⟨.notConfigured, by simp [whenReady, hb, hc]⟩

/-- An instruction is refused or completes; it never faults (R110, R114). -/
theorem exec_outcome (i : Instr) (s : State) :
    (∃ r, exec i s = .refused r) ∨ ∃ t, exec i s = .next t ∧ Completes s t := by
  cases i with
  | init x => exact whenIdle_outcome (runCommand_completes _ _)
  | reservedOp7 x => exact .inl ⟨.reservedOp, rfl⟩
  | sw25Status x p => exact whenReady_outcome (receiveWord_completes _)
  | cw25PresetFm | cw25PresetAm | cw25Search => exact whenReady_outcome (runPlan_completes _)
  | write | read | preset | search | getpll | isstereo => exact whenReady_outcome (runCommand_completes _ _)

theorem exec_completes {i : Instr} {s t : State} (h : exec i s = .next t) : Completes s t := by
  obtain ⟨r, hr⟩ | ⟨u, hu, hc⟩ := exec_outcome i s
  · cases hr.symm.trans h
  · cases hu.symm.trans h
    exact hc

/-! ### The steps of an idle block -/

/-- With a command presented and nothing running, a step is the whole command (R14, R15). -/
theorem step_presented {s : State} (hr : s.port.rst = false) (hb : s.busy = false) (hv : s.port.cmdValid = true)
    (hp : s.pace = .whole) : step s = exec (presentedCommand s) (dropCommand s) := by
  simp [step, hr, hb, hv, hp]

/-- With nothing running and nothing presented, a step is the host's (R8). -/
theorem step_hostMove {s : State} (hr : s.port.rst = false) (hb : s.busy = false) (hv : s.port.cmdValid = false) :
    step s = .next (hostMove s) := by
  simp [step, hr, hb, hv]

theorem hostMove_nil {s : State} (h : s.port.program = []) : hostMove s = s := by
  simp [hostMove, h]

theorem hostMove_cons {s : State} {c : CmdWord} {rest : List CmdWord} (h : s.port.program = c :: rest) :
    hostMove s = s.setPort { s.port with cmd := c, cmdValid := true, program := rest } := by
  simp [hostMove, h]

theorem hostMove_trace (s : State) : (hostMove s).trace = s.trace := by
  cases h : s.port.program with
  | nil => rw [hostMove_nil h]
  | cons c rest => rw [hostMove_cons h, State.setPort_trace]

/-- Settles O35: the step is the host's move, with and without a further command in its program. -/
theorem idleBlockWaits : Obligations.IdleBlockWaits := by
  intro s hr hb hv
  refine ⟨fun h => ?_, fun c rest h => ?_⟩
  · rw [step_hostMove hr hb hv, hostMove_nil h]
  · rw [step_hostMove hr hb hv, hostMove_cons h]
    rfl

/-! ### A host's program (R42) -/

/-- The state in which an idle block runs the first command `c` of the host's program: taken off the program, presented,
and taken off the port. -/
def takeCommand (c : CmdWord) (rest : List CmdWord) (s : State) : State :=
  s.setPort { s.port with cmd := c, cmdValid := false, program := rest }

theorem quietPort_takeCommand (c : CmdWord) (rest : List CmdWord) (s : State) :
    quietPort (takeCommand c rest s) = quietPort s := rfl

/-- The two steps of a command: the first presents it, the second one runs it. -/
theorem step_hostMove_of_program {s : State} {c : CmdWord} {rest : List CmdWord} (hr : s.port.rst = false)
    (hb : s.busy = false) (hp : s.pace = .whole) (h : s.port.program = c :: rest) :
    step (hostMove s) = exec (decodeCmd28 c) (takeCommand c rest s) := by
  rw [hostMove_cons h, step_presented (by exact hr) (by exact hb) rfl (by exact hp)]
  rfl

theorem runCommands_of_next {c : CmdWord} {s t : State} (rest : List CmdWord) (h : exec (decodeCmd28 c) s = .next t) :
    runCommands (c :: rest) s = runCommands rest t := by
  simp only [runCommands, h]

theorem runCommands_of_refused {c : CmdWord} {s : State} {r : Refusal} (rest : List CmdWord)
    (h : exec (decodeCmd28 c) s = .refused r) : runCommands (c :: rest) s = .refused r := by
  simp only [runCommands, h]

/-- Settles O38, by induction on the host's program: two steps run its first command, which is refused in both runs, or
completes, and leaves the block idle with the rest of the program still to present. -/
theorem programRunsItsCommandsInOrder : Obligations.ProgramRunsItsCommandsInOrder := by
  intro cs
  induction cs with
  | nil => intro s _ _ _ _ _; rfl
  | cons c rest ih =>
    intro s hb hp hr hv hprog
    have hmove := step_hostMove hr hb hv
    have hrun := step_hostMove_of_program hr hb hp hprog
    have hquiet : exec (decodeCmd28 c) (quietPort s) = quietOutcome (exec (decodeCmd28 c) (takeCommand c rest s)) := by
      rw [← exec_quietPort, quietPort_takeCommand]
    rw [List.length_cons, Nat.mul_succ, run_of_next _ hmove]
    obtain ⟨r, hx⟩ | ⟨t, hx, hdone⟩ := exec_outcome (decodeCmd28 c) (takeCommand c rest s)
    · rw [run_of_refused _ (hrun.trans hx), runCommands_of_refused rest (by rw [hquiet, hx]; rfl)]
      rfl
    · rw [run_of_next _ (hrun.trans hx), runCommands_of_next rest (by rw [hquiet, hx]; rfl)]
      have hport : t.port = { s.port with cmd := c, cmdValid := false, program := rest } := hdone.port
      exact ih t hdone.idle (hdone.pace.trans hp) (by rw [hport]; exact hr) (by rw [hport]) (by rw [hport])

/-! ### The trace (R7, R14) -/

/-- A single step of a running plan adds one action. -/
theorem stepPlan_trace {pl : Plan} {s t : State} (h : stepPlan pl s = .next t) : ∃ x, t.trace = s.trace ++ [x] := by
  obtain ⟨a, -, ⟨-, rfl⟩ | ⟨-, rfl⟩⟩ := stepPlan_cases h
  · obtain ⟨-, -, -, htrace⟩ := finishPlan_frame pl (runAction a s)
    rw [htrace]
    exact runAction_trace a s
  · exact runAction_trace a s

theorem busyStep_trace {s t : State} (h : busyStep s = .next t) : ∃ x, t.trace = s.trace ++ [x] := by
  obtain ⟨pl, -, hstep⟩ := busyStep_cases h
  exact stepPlan_trace (s := dropCommand s) hstep

/-- When the accept answers a next state, the block has only started a plan (R15). -/
theorem acceptStep_next {s t : State} (h : acceptStep s = .next t) :
    ∃ pl, planOf s.params (presentedCommand s) = some pl ∧ t = acceptCommand s.port.cmd pl (dropCommand s) := by
  unfold acceptStep at h
  split at h
  · rename_i x hi
    obtain ⟨-, rfl⟩ := whenIdle_next h
    exact ⟨planInit, by rw [hi]; rfl, rfl⟩
  · split at h
    · rename_i pl hpl
      obtain ⟨-, -, rfl⟩ := whenReady_next h
      exact ⟨pl, hpl, rfl⟩
    · cases h

theorem acceptStep_trace {s t : State} (h : acceptStep s = .next t) : t.trace = s.trace := by
  obtain ⟨pl, -, rfl⟩ := acceptStep_next h
  obtain ⟨-, -, -, htrace⟩ := startPlan_frame pl ((dropCommand s).setCmdl s.port.cmd)
  exact htrace

/-- No step takes back what was observed. -/
theorem step_trace_grows {s t : State} (h : step s = .next t) : s.trace <+: t.trace := by
  obtain ⟨-, rfl⟩ | ⟨-, -, hbusy⟩ | ⟨-, -, -, -, hexec⟩ | ⟨-, -, -, -, haccept⟩ | ⟨-, -, -, rfl⟩ := step_cases h
  · exact List.prefix_rfl
  · obtain ⟨x, hx⟩ := busyStep_trace hbusy
    rw [hx]
    exact List.prefix_append _ _
  · exact (exec_completes hexec).trace
  · rw [acceptStep_trace haccept]
  · rw [hostMove_trace]

/-- Out of reset, a step of a running command is a step of its plan. -/
theorem step_busy {s : State} (hr : s.port.rst = false) (hb : s.busy = true) : step s = busyStep s := by
  simp [step, hr, hb]

/-- Settles O47, over everything a step can be; a busy step is one action of the plan. -/
theorem traceOnlyGrows : Obligations.TraceOnlyGrows := by
  intro s t h
  refine ⟨step_trace_grows h, fun hr hb => ?_⟩
  obtain ⟨x, hx⟩ := busyStep_trace (step_busy hr hb ▸ h)
  rw [hx, List.length_append, List.length_singleton]

end Sys2Proof.Machine

/-! # State (10_state.md): the encoder, the pins, the accept condition, the steps and the invariant

Four facts carry the proofs. The fields a decoder cuts out of a word are adjacent, so the encoder joins them to the same word
(`encode_decodeCmd28`). Every command is one plan behind one accept condition, as a whole (`exec_eq_gate`) and in single steps
(`acceptStep_eq_gate`). A step that answers a next state is one of six (`stepsTo_of_step`). The pins of a running list are a
function of the index `UPC` (`kindPins_action`, `idleInv_lastAction`). -/

namespace Sys2Proof

/-! ### A word is the concatenation of its fields (R51, R58, R59) -/

/-- Two adjacent fields of a word are one field (the library's lemma, with the place of the high field computed). -/
theorem extract_adjacent {n : Nat} (w : BitVec n) (k a b : Nat) :
    w.extractLsb' (k + b) a ++ w.extractLsb' k b = w.extractLsb' k (a + b) :=
  BitVec.extractLsb'_append_extractLsb'_eq_extractLsb' rfl

theorem cmdWord_fields (w : CmdWord) : cmdWord (w.extractLsb' 25 3) (w.extractLsb' 0 25) = w :=
  extract_append (a := 3) (b := 25) w

theorem statusWord_fields (w : Word25) : statusWord (w.extractLsb' 17 8) (w.extractLsb' 0 17) = w :=
  extract_append (a := 8) (b := 17) w

theorem presetPayload_fields (w : CmdWord) :
    presetPayload (w.extractLsb' 18 7) (bandOfCode (w.extractLsb' 16 2)) (w.extractLsb' 0 16) = w.extractLsb' 0 25 := by
  rw [presetPayload, codeOfBand_bandOfCode]
  calc w.extractLsb' 18 7 ++ w.extractLsb' 16 2 ++ w.extractLsb' 0 16
      = w.extractLsb' 16 9 ++ w.extractLsb' 0 16 := by rw [extract_adjacent w 16 7 2]
    _ = w.extractLsb' 0 25 := extract_adjacent w 0 9 16

theorem searchPayload_fields (w : CmdWord) :
    searchPayload (w.extractLsb' 7 18) (directionOfCode (w.extractLsb' 5 2)) (levelOfCode (w.extractLsb' 2 3))
      (bandOfCode (w.extractLsb' 0 2)) = w.extractLsb' 0 25 := by
  rw [searchPayload, codeOfDirection_directionOfCode, codeOfLevel_levelOfCode, codeOfBand_bandOfCode]
  calc w.extractLsb' 7 18 ++ w.extractLsb' 5 2 ++ w.extractLsb' 2 3 ++ w.extractLsb' 0 2
      = w.extractLsb' 5 20 ++ w.extractLsb' 2 3 ++ w.extractLsb' 0 2 := by rw [extract_adjacent w 5 18 2]
    _ = w.extractLsb' 2 23 ++ w.extractLsb' 0 2 := by rw [extract_adjacent w 2 20 3]
    _ = w.extractLsb' 0 25 := extract_adjacent w 0 23 2

/-- A control word, with its bits 24:20 (`S`, `D`, `B`, `L`) as one field. -/
theorem header_fields (w : Word25) : w.extractLsb' 20 5 ++ w.extractLsb' 17 3 ++ w.extractLsb' 0 17 = w := by
  rw [extract_adjacent w 17 5 3]
  exact extract_append (a := 8) (b := 17) w

theorem controlWord_fields (w : Word25) :
    controlWord (w.extractLsb' 24 1) (w.extractLsb' 23 1) (w.extractLsb' 22 1) (w.extractLsb' 20 2) (w.extractLsb' 17 3)
      (w.extractLsb' 0 17) = w := by
  rw [controlWord, extract_adjacent w 23 1 1, extract_adjacent w 22 2 1, extract_adjacent w 20 3 2]
  exact header_fields w

/-! ### The encoder inverts the decoder of each format -/

theorem encode_decodeCmd28 (w : CmdWord) : encode (decodeCmd28 w) = .cmd28 w := by
  have hop (op : BitVec 3) (h : (w.extractLsb' 25 3).toNat = op.toNat) : cmdWord op (w.extractLsb' 0 25) = w := by
    rw [← BitVec.eq_of_toNat_eq h, cmdWord_fields]
  unfold decodeCmd28
  split <;> simp only [encode, presetPayload_fields, searchPayload_fields, FormatWord.cmd28.injEq]
  case h_8 =>
    have hlt := (w.extractLsb' 25 3).isLt
    simp only [imp_false] at *
    exact hop 7 (show _ = 7 by omega)
  all_goals exact hop _ ‹_›

theorem encode_decodeCw25 {w : Word25} {i : Instr} (h : decodeCw25 w = .ok i) : encode i = .cw25 w := by
  have hheader (x : BitVec 5) (hx : (w.extractLsb' 20 5).toNat = x.toNat) :
      x ++ w.extractLsb' 17 3 ++ w.extractLsb' 0 17 = w := by
    rw [← BitVec.eq_of_toNat_eq hx, header_fields]
  unfold decodeCw25 at h
  split at h
  · cases h
    exact congrArg FormatWord.cw25 (hheader 0 ‹_›)
  · cases h
    exact congrArg FormatWord.cw25 (hheader 4 ‹_›)
  · split at h <;> cases h
    rename_i hshape
    obtain ⟨hs, hp⟩ := hshape
    have hw := controlWord_fields w
    rw [hs, hp] at hw
    exact congrArg FormatWord.cw25 hw

/-- Settles O2, format by format: each decoder cuts the word into adjacent fields and the encoder joins them again. -/
theorem encodeInvertsDecode : Obligations.EncodeInvertsDecode := by
  intro w i h
  cases w with
  | cmd28 w =>
    cases h
    exact encode_decodeCmd28 w
  | cw25 w => exact encode_decodeCw25 h
  | sw25 w =>
    cases h
    exact congrArg FormatWord.sw25 (statusWord_fields w)

end Sys2Proof

namespace Sys2Proof.Machine

open Sys2Proof Sys2Proof.Safety

/-! ### The pin primitives (R32, R33, R34) -/

/-- Settles O5: each primitive writes one bit of one of the two pin registers, which `PinBits.get_set` reads back. -/
theorem pinDirAndPinWrWriteOneBit : Obligations.PinDirAndPinWrWriteOneBit := by
  intro s p d l
  have hdir (d' : Dir) (q : Pin) : (pinDir p d' s).oe.get q = if q = p then decide (d' = .out) else s.oe.get q :=
    PinBits.get_set s.oe p q _
  have hwr (q : Pin) : (pinWr p l s).o.get q = if q = p then l else s.o.get q := PinBits.get_set s.o p q l
  have ho (d' : Dir) : (pinDir p d' s).o = s.o := rfl
  have hoe : (pinWr p l s).oe = s.oe := rfl
  refine ⟨rfl, rfl, hdir d, hwr, ?_, ?_, ?_⟩
  · simp [driven, hdir, ho]
  · simp [driven, hdir]
  · simp [driven, hwr, hoe]

/-- A read of an undriven line: the environment's answer, and only the environment and the trace change. -/
theorem pinRd_undriven {s : State} {p : Pin} {b : Bool} {e : Env} (hoe : s.oe.get p = false)
    (ha : s.env.answer p = (b, e)) : pinRd p s = (b, { s with env := e, trace := s.trace ++ [.rd p b] }) := by
  rw [pinRd, sampleLine_undriven hoe, ha]
  rfl

/-- Settles O6: by `pinRd_undriven` from the environment's answer on each line, placed or free. -/
theorem pinRdTakesTheEnvironmentsAnswer : Obligations.PinRdTakesTheEnvironmentsAnswer := by
  intro s b rest
  refine ⟨fun hoe => ⟨fun h => pinRd_undriven hoe ?_, fun h => pinRd_undriven hoe ?_⟩,
    fun hoe => ⟨fun h => pinRd_undriven hoe ?_, fun h => pinRd_undriven hoe ?_⟩, ?_⟩
  · simp [Env.answer, h]
  · simp [Env.answer, h]
  · simp [Env.answer, h]
  · simp [Env.answer, h]
  · rintro p (rfl | rfl) hoe
    · exact pinRd_undriven hoe rfl
    · exact pinRd_undriven hoe rfl

/-! ### The accept condition (R15, R16, R114) -/

theorem whenIdle_of_busy {s : State} (k : State → State) (h : s.busy = true) : whenIdle s k = .refused .busy := by
  simp [whenIdle, h]

theorem whenReady_of_busy {s : State} (k : State → State) (h : s.busy = true) : whenReady s k = .refused .busy := by
  simp [whenReady, h]

theorem whenReady_of_unconfigured {s : State} (k : State → State) (hb : s.busy = false) (hc : s.configured = false) :
    whenReady s k = .refused .notConfigured := by
  simp [whenReady, hb, hc]

/-- Every instruction but `INIT` and the reserved one is accepted by a ready block only. -/
theorem exec_eq_whenReady {i : Instr} (s : State) (hinit : ∀ x, i ≠ .init x) (hres : ∀ x, i ≠ .reservedOp7 x) :
    ∃ k, exec i s = whenReady s k := by
  cases i with
  | init x => exact absurd rfl (hinit x)
  | reservedOp7 x => exact absurd rfl (hres x)
  | _ => exact ⟨_, rfl⟩

/-- Settles O22: all these instructions need a ready block (`exec_eq_whenReady`). -/
theorem nothingButInitBeforeInit : Obligations.NothingButInitBeforeInit := by
  intro i s hb hc hinit hres
  obtain ⟨k, hk⟩ := exec_eq_whenReady s hinit hres
  rw [hk, whenReady_of_unconfigured k hb hc]

/-- Settles O23: `INIT` needs an idle block, every other instruction a ready one. -/
theorem nothingIsAcceptedWhileBusy : Obligations.NothingIsAcceptedWhileBusy := by
  intro i s hb hres
  cases i with
  | init x => exact whenIdle_of_busy _ hb
  | _ =>
    obtain ⟨k, hk⟩ := exec_eq_whenReady s (fun _ => Instr.noConfusion) hres
    rw [hk, whenReady_of_busy k hb]

/-! ### Every command is its plan behind one accept condition (R14, R15) -/

/-- The accept condition of a command: `INIT` needs an idle block, every other command a ready one (R70, R114). -/
def gate (i : Instr) (s : State) (k : State → State) : Host.Outcome State Fault Refusal :=
  match i with
  | .init _ => whenIdle s k
  | _ => whenReady s k

/-- The block accepts the command: not busy, and configured unless the command is `INIT`. -/
structure Accepts (i : Instr) (s : State) : Prop where
  idle : s.busy = false
  ready : listKind i = .init ∨ s.configured = true

theorem gate_of_accepts {i : Instr} {s : State} (h : Accepts i s) (k : State → State) : gate i s k = .next (k s) := by
  obtain ⟨hb, hready⟩ := h
  cases i with
  | init x => exact whenIdle_of_idle k hb
  | preset x b f => exact whenReady_of_ready k ⟨hb, hready.resolve_left (by cases b <;> simp [listKind])⟩
  | _ => exact whenReady_of_ready k ⟨hb, hready.resolve_left (by simp [listKind])⟩

/-- A block that does not accept a command refuses it, whatever the command would do. -/
theorem gate_refuses {i : Instr} {s : State} (h : ¬ Accepts i s) : ∃ r, ∀ k, gate i s k = .refused r := by
  cases hb : s.busy with
  | true =>
    refine ⟨.busy, fun k => ?_⟩
    cases i with
    | init x => exact whenIdle_of_busy k hb
    | _ => exact whenReady_of_busy k hb
  | false =>
    have hready : ¬ (listKind i = .init ∨ s.configured = true) := fun h' => h ⟨hb, h'⟩
    obtain ⟨hinit, hc⟩ := not_or.mp hready
    refine ⟨.notConfigured, fun k => ?_⟩
    cases i with
    | init x => exact absurd rfl hinit
    | _ => exact whenReady_of_unconfigured k hb (by simpa using hc)

/-- A command word with a plan runs the plan, with the whole word latched (R13). -/
theorem exec_eq_gate {i : Instr} {c : CmdWord} {s : State} {pl : Plan} (hc : encode i = .cmd28 c)
    (hp : planOf s.params i = some pl) : exec i s = gate i s (runCommand c pl) := by
  cases i with
  | reservedOp7 | cw25PresetFm | cw25PresetAm | cw25Search | sw25Status => cases hp
  | _ =>
    cases hc
    cases hp
    rfl

/-- The accept alone, of a command with a plan. -/
theorem acceptStep_eq_gate {s : State} {pl : Plan} (hp : planOf s.params (presentedCommand s) = some pl) :
    acceptStep s = gate (presentedCommand s) (dropCommand s) (acceptCommand s.port.cmd pl) := by
  unfold acceptStep
  generalize presentedCommand s = i at hp ⊢
  cases i with
  | init x =>
    cases hp
    rfl
  | _ => simp only [hp, gate]

/-- The command words without a plan are those of the reserved `OP` (R63). -/
theorem planOf_command_eq_none {params : Params} {i : Instr} {c : CmdWord} (hc : encode i = .cmd28 c)
    (hp : planOf params i = none) : ∃ x, i = .reservedOp7 x := by
  cases i with
  | reservedOp7 x => exact ⟨x, rfl⟩
  | cw25PresetFm | cw25PresetAm | cw25Search | sw25Status => cases hc
  | _ => cases hp

theorem acceptStep_reserved {s : State} {x : BitVec 25} (h : presentedCommand s = .reservedOp7 x) :
    acceptStep s = .refused .reservedOp := by
  simp [acceptStep, h, planOf]

/-! ### The plans of the commands -/

/-- The plan of a command by the kind of its list. -/
inductive KindPlan : ListKind → Plan → Prop
  | init : KindPlan .init planInit
  | transmit (w : Word25) : KindPlan .transmit (planTransmit w)
  | receive (f : Final) (hf : f = .resFromSr ∨ f = .resFromSrMasked) : KindPlan .receive ⟨none, rx25, f⟩
  | stereo : KindPlan .stereo planIsstereo
  | none : KindPlan .none ⟨Option.none, [], .nothing⟩

theorem kindPlan_of_planOf {params : Params} {i : Instr} {pl : Plan} (h : planOf params i = some pl) :
    KindPlan (listKind i) pl := by
  obtain ⟨hinit, htransmit, hreceive, hstereo, hnone⟩ := planOf_by_kind params i
  cases hk : listKind i with
  | init =>
    cases h.symm.trans (hinit hk)
    exact .init
  | transmit =>
    obtain ⟨w, hw⟩ := htransmit hk
    cases h.symm.trans hw
    exact .transmit w
  | receive =>
    obtain ⟨f, hf, hpl⟩ := hreceive hk
    cases h.symm.trans hpl
    exact .receive f hf
  | stereo =>
    cases h.symm.trans (hstereo hk)
    exact .stereo
  | none =>
    obtain hpl | hpl := hnone hk
    · cases h.symm.trans hpl
    · cases h.symm.trans hpl
      exact .none

/-- A command with a list has a plan. -/
theorem planOf_of_kind {params : Params} {i : Instr} (h : listKind i ≠ .none) : ∃ pl, planOf params i = some pl := by
  obtain ⟨hinit, htransmit, hreceive, hstereo, -⟩ := planOf_by_kind params i
  cases hk : listKind i with
  | init => exact ⟨_, hinit hk⟩
  | transmit =>
    obtain ⟨w, hw⟩ := htransmit hk
    exact ⟨_, hw⟩
  | receive =>
    obtain ⟨f, -, hpl⟩ := hreceive hk
    exact ⟨_, hpl⟩
  | stereo => exact ⟨_, hstereo hk⟩
  | none => exact absurd hk h

/-- `UPC` has room for the index of every action: no list is longer than the 105 actions of `TX25` (R14). -/
theorem KindPlan.length_le {k : ListKind} {pl : Plan} (h : KindPlan k pl) : pl.acts.length ≤ 105 := by
  cases h with
  | init => exact le_of_eq_of_le initActions_length (by decide)
  | transmit => exact le_of_eq tx25_length
  | receive => exact le_of_eq_of_le rx25_length (by decide)
  | stereo => decide
  | none => decide

/-- Only `INIT` sets `CONFIGURED` at its end (R16, R70). -/
theorem KindPlan.eq_init_of_setConfigured {k : ListKind} {pl : Plan} (h : KindPlan k pl)
    (hf : pl.final = .setConfigured) : k = .init := by
  cases h with
  | init => rfl
  | receive f hf' => rcases hf' with rfl | rfl <;> cases hf
  | transmit | stereo | none => cases hf

/-! ### What one step does, by its plan (R14, R15, R130) -/

/-- The steps that answer a next state. -/
inductive StepsTo (s : State) : State → Prop
  | reset (hr : s.port.rst = true) : StepsTo s (takeReset s)
  | action {pl : Plan} {a : Action} (hr : s.port.rst = false) (hb : s.busy = true)
      (hpl : KindPlan (listKind (latchedCommand s)) pl) (ha : pl.acts[s.upc.toNat]? = some a)
      (hmore : s.upc.toNat + 1 ≠ pl.acts.length) :
      StepsTo s ((runAction a (dropCommand s)).setUpc (s.upc + 1))
  | lastAction {pl : Plan} {a : Action} (hr : s.port.rst = false) (hb : s.busy = true)
      (hpl : KindPlan (listKind (latchedCommand s)) pl) (ha : pl.acts[s.upc.toNat]? = some a)
      (hlast : s.upc.toNat + 1 = pl.acts.length) :
      StepsTo s (finishPlan pl (runAction a (dropCommand s)))
  | command {pl : Plan} (hr : s.port.rst = false) (hpl : KindPlan (listKind (presentedCommand s)) pl)
      (hacc : Accepts (presentedCommand s) s) : StepsTo s (runCommand s.port.cmd pl (dropCommand s))
  | accept {pl : Plan} (hr : s.port.rst = false) (hpl : KindPlan (listKind (presentedCommand s)) pl)
      (hacc : Accepts (presentedCommand s) s) : StepsTo s (acceptCommand s.port.cmd pl (dropCommand s))
  | host (hr : s.port.rst = false) : StepsTo s (hostMove s)

theorem gate_next {i : Instr} {s t : State} {k : State → State} (h : gate i s k = .next t) : Accepts i s ∧ t = k s := by
  by_cases hacc : Accepts i s
  · cases (gate_of_accepts hacc k).symm.trans h
    exact ⟨hacc, rfl⟩
  · obtain ⟨r, hr⟩ := gate_refuses hacc
    cases (hr k).symm.trans h

theorem encode_presentedCommand (s : State) : encode (presentedCommand s) = .cmd28 s.port.cmd :=
  encode_decodeCmd28 s.port.cmd

/-- A presented command that answers a next state has a plan, and the block accepts it. -/
theorem exec_presented_next {s t : State} (h : exec (presentedCommand s) (dropCommand s) = .next t) :
    ∃ pl, planOf s.params (presentedCommand s) = some pl ∧ Accepts (presentedCommand s) s ∧
      t = runCommand s.port.cmd pl (dropCommand s) := by
  cases hp : planOf s.params (presentedCommand s) with
  | none =>
    obtain ⟨x, hx⟩ := planOf_command_eq_none (encode_presentedCommand s) hp
    rw [hx] at h
    cases h
  | some pl =>
    rw [exec_eq_gate (s := dropCommand s) (encode_presentedCommand s) hp] at h
    obtain ⟨⟨hidle, hready⟩, rfl⟩ := gate_next h
    exact ⟨pl, rfl, ⟨hidle, hready⟩, rfl⟩

theorem acceptStep_presented_next {s t : State} (h : acceptStep s = .next t) :
    ∃ pl, planOf s.params (presentedCommand s) = some pl ∧ Accepts (presentedCommand s) s ∧
      t = acceptCommand s.port.cmd pl (dropCommand s) := by
  obtain ⟨pl, hp, rfl⟩ := acceptStep_next h
  rw [acceptStep_eq_gate hp] at h
  obtain ⟨⟨hidle, hready⟩, -⟩ := gate_next h
  exact ⟨pl, hp, ⟨hidle, hready⟩, rfl⟩

theorem stepsTo_of_step {s t : State} (h : step s = .next t) : StepsTo s t := by
  obtain ⟨hr, rfl⟩ | ⟨hr, hb, hbusy⟩ | ⟨hr, -, -, -, hexec⟩ | ⟨hr, -, -, -, haccept⟩ | ⟨hr, -, -, rfl⟩ := step_cases h
  · exact .reset hr
  · obtain ⟨pl, hp, hstep⟩ := busyStep_cases hbusy
    obtain ⟨a, ha, ⟨hlast, rfl⟩ | ⟨hmore, rfl⟩⟩ := stepPlan_cases hstep
    · exact .lastAction hr hb (kindPlan_of_planOf hp) ha hlast
    · exact .action hr hb (kindPlan_of_planOf hp) ha hmore
  · obtain ⟨pl, hp, hacc, rfl⟩ := exec_presented_next hexec
    exact .command hr (kindPlan_of_planOf hp) hacc
  · obtain ⟨pl, hp, hacc, rfl⟩ := acceptStep_presented_next haccept
    exact .accept hr (kindPlan_of_planOf hp) hacc
  · exact .host hr

/-! ### What start, end and whole run of a plan leave unchanged -/

theorem hostMove_frame (s : State) : ∃ p, hostMove s = s.setPort p := by
  cases h : s.port.program with
  | nil => exact ⟨s.port, hostMove_nil h⟩
  | cons c rest => exact ⟨_, hostMove_cons h⟩

theorem startPlan_cmdl (pl : Plan) (s : State) : (startPlan pl s).cmdl = s.cmdl := by
  obtain ⟨load, acts, final⟩ := pl
  cases acts <;> cases load <;> rfl

theorem startPlan_configured (pl : Plan) (s : State) : (startPlan pl s).configured = s.configured := by
  obtain ⟨load, acts, final⟩ := pl
  cases acts <;> cases load <;> rfl

theorem startPlan_res (pl : Plan) (s : State) : (startPlan pl s).res = s.res := by
  obtain ⟨load, acts, final⟩ := pl
  cases acts <;> cases load <;> rfl

theorem finishPlan_cmdl (pl : Plan) (s : State) : (finishPlan pl s).cmdl = s.cmdl := by
  obtain ⟨-, hcmdl, -⟩ := runFinal_frame pl.final s
  exact hcmdl

theorem finishPlan_configured (pl : Plan) (s : State) :
    (finishPlan pl s).configured = (s.configured || decide (pl.final = .setConfigured)) := by
  obtain ⟨load, acts, final⟩ := pl
  cases final <;> simp [finishPlan, runFinal]

theorem runPlan_cmdl (pl : Plan) (s : State) : (runPlan pl s).cmdl = s.cmdl := by
  unfold runPlan
  split
  · rfl
  · obtain ⟨hcmdl, -⟩ := runActions_frame pl.acts (startPlan pl s)
    rw [finishPlan_cmdl, State.setUpc_cmdl, hcmdl, startPlan_cmdl]

/-- A plan sets `CONFIGURED` by its final writes or not at all (R16). -/
theorem runPlan_configured (pl : Plan) (s : State) :
    (runPlan pl s).configured = (s.configured || decide (pl.acts ≠ [] ∧ pl.final = .setConfigured)) := by
  unfold runPlan
  split
  · simp [*]
  · obtain ⟨-, -, -, hconf, -⟩ := runActions_frame pl.acts (startPlan pl s)
    rw [finishPlan_configured, State.setUpc_configured, hconf, startPlan_configured]
    simp [*]

/-! ### Whole-machine rules (R15, R16, R18, R19, R22) -/

/-- Settles O44, over everything a step can be. -/
theorem stepKeepsTheConstants : Obligations.StepKeepsTheConstants := by
  intro s t h
  cases stepsTo_of_step h with
  | reset => rfl
  | action =>
    obtain ⟨-, -, -, -, hparams, -⟩ := runAction_frame _ (dropCommand s)
    exact hparams
  | lastAction =>
    obtain ⟨-, -, -, -, hparams, -⟩ := runAction_frame _ (dropCommand s)
    obtain ⟨hfinish, -⟩ := finishPlan_frame _ _
    exact hfinish.trans hparams
  | command _ _ hacc => exact (runCommand_completes _ _ (s := dropCommand s) hacc.idle).params
  | accept =>
    obtain ⟨hparams, -⟩ := startPlan_frame _ _
    exact hparams
  | host =>
    obtain ⟨p, hp⟩ := hostMove_frame s
    rw [hp, State.setPort_params]

/-- Settles O45: only the final writes of a plan touch `CONFIGURED`, and only those of `INIT` set it. -/
theorem configuredIsClearedOnlyByReset : Obligations.ConfiguredIsClearedOnlyByReset := by
  intro s t hrst h
  cases stepsTo_of_step h with
  | reset hr => simp [hrst] at hr
  | @action pl a =>
    obtain ⟨-, -, -, hconf, -⟩ := runAction_frame a (dropCommand s)
    have hsame : ((runAction a (dropCommand s)).setUpc (s.upc + 1)).configured = s.configured := hconf
    rw [hsame]
    exact ⟨id, fun hc hc' => by simp [hc] at hc'⟩
  | @lastAction pl a _ _ hpl =>
    obtain ⟨hcmdl, -, -, hconf, -⟩ := runAction_frame a (dropCommand s)
    have hlatched : latchedCommand (finishPlan pl (runAction a (dropCommand s))) = latchedCommand s := by
      rw [latchedCommand, finishPlan_cmdl, hcmdl]
      rfl
    rw [finishPlan_configured, hconf, hlatched]
    refine ⟨fun hc => by simp [dropCommand, hc], fun hc hset => ⟨?_, rfl⟩⟩
    exact hpl.eq_init_of_setConfigured (by simpa [dropCommand, hc] using hset)
  | @command pl _ hpl hacc =>
    have hlatched : latchedCommand (runCommand s.port.cmd pl (dropCommand s)) = presentedCommand s := by
      rw [latchedCommand, runCommand, runPlan_cmdl]
      rfl
    have hdone := runCommand_completes s.port.cmd pl (s := dropCommand s) hacc.idle
    rw [hlatched]
    rw [runCommand, runPlan_configured]
    refine ⟨fun hc => by simp [dropCommand, hc], fun hc hset => ⟨?_, hdone.idle⟩⟩
    have hfinal : pl.acts ≠ [] ∧ pl.final = .setConfigured := by simpa [dropCommand, hc] using hset
    exact hpl.eq_init_of_setConfigured hfinal.2
  | @accept pl =>
    have hsame : (acceptCommand s.port.cmd pl (dropCommand s)).configured = s.configured := startPlan_configured _ _
    rw [hsame]
    exact ⟨id, fun hc hc' => by simp [hc] at hc'⟩
  | host =>
    obtain ⟨p, hp⟩ := hostMove_frame s
    rw [hp, State.setPort_configured]
    exact ⟨id, fun hc hc' => by simp [hc] at hc'⟩

/-- Settles O34: `takeReset` gives every register its value of R22 and writes no other field. -/
theorem resetWins : Obligations.ResetWins := by
  intro s hr
  refine ⟨takeReset s, by simp [step, hr], rfl, rfl, rfl, fun p => ?_, rfl, rfl, rfl⟩
  cases p <;> rfl

/-- Settles O39: the reset state is idle and not configured, so only the first clause of the invariant speaks of it. -/
theorem resetStateSatisfiesTheInvariant : Obligations.ResetStateSatisfiesTheInvariant := by
  refine ⟨⟨fun _ => ⟨fun hc => ?_, fun _ => rfl⟩, fun hb => ?_⟩, rfl, rfl, rfl, rfl, rfl⟩
  · cases hc
  · cases hb

/-- Settles O32: every command word decodes, and the step is the one of `step_presented`. -/
theorem stepRunsThePresentedCommand : Obligations.StepRunsThePresentedCommand := by
  intro s hr hb hv hp
  exact ⟨presentedCommand s, rfl, step_presented hr hb hv hp⟩

/-- Settles O8: an idle block accepts `INIT`, and its plan ends in `initialised`. -/
theorem initPutsThePinsInTheIdleState : Obligations.InitPutsThePinsInTheIdleState := by
  intro x s hb
  refine ⟨runCommand (cmdWord 0 x) planInit s, whenIdle_of_idle _ hb, runPlan_init _, ?_⟩
  rw [runCommand, runPlan_init]
  exact ⟨rfl, rfl, rfl, rfl⟩

/-! ### The result register (R12) -/

/-- An action other than the sample of `MOST` leaves `RES` alone. -/
theorem runAction_res {a : Action} (h : a.op ≠ .rdMost) (s : State) : (runAction a s).res = s.res := by
  obtain ⟨before, op, after⟩ := a
  have hshift (b : Bool) (u : State) : (shiftIf b u).res = u.res := by cases b <;> rfl
  have hop (u : State) : (runOp op u).res = u.res := by
    cases op with
    | rdMost => exact absurd rfl h
    | _ => rfl
  simp only [runAction, hshift, hop]

theorem runActions_res {as : List Action} (h : ∀ a ∈ as, a.op ≠ .rdMost) (s : State) : (runActions as s).res = s.res := by
  induction as generalizing s with
  | nil => rfl
  | cons a as ih =>
    obtain ⟨ha, has⟩ := List.forall_mem_cons.mp h
    rw [runActions, ih has, runAction_res ha]

/-- A plan that neither samples `MOST` nor moves `SR` to `RES` at its end leaves `RES` alone. -/
theorem runPlan_res {pl : Plan} (h : ∀ a ∈ pl.acts, a.op ≠ .rdMost) (hf : pl.final = .nothing ∨ pl.final = .setConfigured)
    (s : State) : (runPlan pl s).res = s.res := by
  have hfinish (u : State) : (finishPlan pl u).res = u.res := by
    rcases hf with hf | hf <;> simp [finishPlan, hf, runFinal]
  unfold runPlan
  split
  · rfl
  · rw [hfinish, State.setUpc_res, runActions_res h, startPlan_res]

theorem rx25_op_ne_rdMost : ∀ a ∈ rx25, a.op ≠ .rdMost := by decide

theorem runPlan_transmit_res (w : Word25) (s : State) : (runPlan (planTransmit w) s).res = s.res := by
  rw [runPlan_transmit]
  rfl

theorem receiveWord_res (w : Word25) (s : State) : (receiveWord w s).res = s.res := by
  rw [receiveWord, State.setEnv_res, runPlan_res (pl := planReceive) rx25_op_ne_rdMost (.inl rfl), State.setEnv_res]

/-- Settles O46: the three instructions left out are those whose plan samples `MOST` or ends in a write of `RES`. -/
theorem resIsWrittenByQueriesOnly : Obligations.ResIsWrittenByQueriesOnly := by
  intro i s t h hread hgetpll hisstereo
  cases i with
  | read x => exact absurd rfl (hread x)
  | getpll x => exact absurd rfl (hgetpll x)
  | isstereo x => exact absurd rfl (hisstereo x)
  | reservedOp7 x => cases h
  | init x =>
    obtain ⟨-, rfl⟩ := whenIdle_next h
    rw [runCommand, runPlan_init]
    rfl
  | preset x band freq =>
    obtain ⟨-, -, rfl⟩ := whenReady_next h
    cases band with
    | fm | am => exact runPlan_transmit_res _ (s.setCmdl _)
    | outside2 | outside3 => rfl
  | write | search =>
    obtain ⟨-, -, rfl⟩ := whenReady_next h
    exact runPlan_transmit_res _ (s.setCmdl _)
  | cw25PresetFm | cw25PresetAm | cw25Search =>
    obtain ⟨-, -, rfl⟩ := whenReady_next h
    exact runPlan_transmit_res _ s
  | sw25Status x p =>
    obtain ⟨-, -, rfl⟩ := whenReady_next h
    exact receiveWord_res _ s

/-! ### A running operation and the port (R13, R38, R114) -/

theorem quietPort_setPort (s : State) (p : HostPort) : quietPort (s.setPort p) = quietPort s := rfl

/-- Up to the port, a step of a running plan is the same whatever the port holds. -/
theorem stepPlan_quietPort (pl : Plan) (s : State) (p : HostPort) :
    quietOutcome (stepPlan pl (s.setPort p)) = quietOutcome (stepPlan pl s) := by
  cases ha : pl.acts[s.upc.toNat]? with
  | none =>
    simp only [stepPlan, State.setPort_upc, ha]
  | some a =>
    by_cases hlast : s.upc.toNat + 1 = pl.acts.length
    · simp only [stepPlan, State.setPort_upc, ha, if_pos hlast, runAction_setPort, finishPlan_setPort]
      rfl
    · simp only [stepPlan, State.setPort_upc, ha, if_neg hlast, runAction_setPort]
      rfl

theorem busyStep_quietPort (s : State) (p : HostPort) :
    quietOutcome (busyStep (s.setPort p)) = quietOutcome (busyStep s) := by
  have hdrop : dropCommand (s.setPort p) = (dropCommand s).setPort { p with cmdValid := false } := rfl
  have hlatched : latchedCommand (s.setPort p) = latchedCommand s := rfl
  unfold busyStep
  rw [hdrop, hlatched, State.setPort_params]
  split
  · exact stepPlan_quietPort _ _ _
  · rfl

/-- Settles O36: a busy step reads nothing of the port, and its action and final writes write neither port nor latch. -/
theorem runningOperationIgnoresThePort : Obligations.RunningOperationIgnoresThePort := by
  intro s c v p hr hb
  refine ⟨?_, fun t h => ?_⟩
  · rw [step_busy hr hb, step_busy (s := s.setPort ⟨false, c, v, p⟩) rfl hb, busyStep_quietPort]
  · obtain ⟨pl, -, hstep⟩ := busyStep_cases (step_busy hr hb ▸ h)
    obtain ⟨a, -, hnext⟩ := stepPlan_cases hstep
    obtain ⟨hcmdl, -, -, -, -, hport, -⟩ := runAction_frame a (dropCommand s)
    rcases hnext with ⟨-, rfl⟩ | ⟨-, rfl⟩
    · obtain ⟨-, hfinish, -⟩ := finishPlan_frame pl (runAction a (dropCommand s))
      exact ⟨hfinish.trans hport, (finishPlan_cmdl pl _).trans hcmdl⟩
    · exact ⟨hport, hcmdl⟩

/-! ### Single steps (R14, D19) -/

theorem runAction_setUpc (a : Action) (s : State) (v : BitVec 7) :
    runAction a (s.setUpc v) = (runAction a s).setUpc v := by
  obtain ⟨before, op, after⟩ := a
  cases before <;> cases after <;> cases op <;> rfl

theorem runActions_setUpc (as : List Action) (s : State) (v : BitVec 7) :
    runActions as (s.setUpc v) = (runActions as s).setUpc v := by
  induction as generalizing s with
  | nil => rfl
  | cons a as ih => simp only [runActions, runAction_setUpc, ih]

theorem dropCommand_of_quiet {s : State} (h : s.port.cmdValid = false) : dropCommand s = s := by
  apply State.eq_of_fields <;> simp [dropCommand, ← h]

/-- The plan of the latched command is running and nothing is presented. -/
structure Running (pl : Plan) (s : State) : Prop where
  rst : s.port.rst = false
  quiet : s.port.cmdValid = false
  busy : s.busy = true
  plan : planOf s.params (latchedCommand s) = some pl

theorem Running.step {pl : Plan} {s : State} (h : Running pl s) : step s = stepPlan pl s := by
  obtain ⟨hr, hq, hb, hp⟩ := h
  rw [step_busy hr hb, busyStep, hp, dropCommand_of_quiet hq]

theorem Running.runAction {pl : Plan} {s : State} (h : Running pl s) (a : Action) (v : BitVec 7) :
    Running pl ((runAction a s).setUpc v) := by
  obtain ⟨hr, hq, hb, hp⟩ := h
  obtain ⟨hcmdl, -, hbusy, -, hparams, hport, -⟩ := runAction_frame a s
  refine ⟨?_, ?_, ?_, ?_⟩
  · rw [State.setUpc_port, hport, hr]
  · rw [State.setUpc_port, hport, hq]
  · rw [State.setUpc_busy, hbusy, hb]
  · rw [latchedCommand, State.setUpc_params, State.setUpc_cmdl, hparams, hcmdl]
    exact hp

/-- An accepted plan with a list is running from the accept on. -/
theorem running_acceptCommand {c : CmdWord} {pl : Plan} {s : State} (hp : planOf s.params (decodeCmd28 c) = some pl)
    (hne : pl.acts ≠ []) (hr : s.port.rst = false) (hq : s.port.cmdValid = false) :
    Running pl (acceptCommand c pl s) := by
  obtain ⟨hparams, hport, -⟩ := startPlan_frame pl (s.setCmdl c)
  refine ⟨?_, ?_, ?_, ?_⟩
  · rw [acceptCommand, hport]
    exact hr
  · rw [acceptCommand, hport]
    exact hq
  · simp [acceptCommand, startPlan, hne]
  · rw [latchedCommand, acceptCommand, hparams, startPlan_cmdl]
    exact hp

/-- The step at a last action. -/
theorem stepPlan_last {pl : Plan} {s : State} {pre : List Action} {a : Action} (h : pl.acts = pre ++ [a])
    (hupc : s.upc.toNat = pre.length) : stepPlan pl s = .next (finishPlan pl (runAction a s)) := by
  have ha : pl.acts[s.upc.toNat]? = some a := by simp [h, hupc]
  have hlast : s.upc.toNat + 1 = pl.acts.length := by simp [h, hupc]
  simp only [stepPlan, ha, if_pos hlast]

/-- The step at any other action. -/
theorem stepPlan_more {pl : Plan} {s : State} {pre rest : List Action} {a b : Action} (h : pl.acts = pre ++ a :: b :: rest)
    (hupc : s.upc.toNat = pre.length) : stepPlan pl s = .next ((runAction a s).setUpc (s.upc + 1)) := by
  have ha : pl.acts[s.upc.toNat]? = some a := by simp [h, hupc]
  have hmore : s.upc.toNat + 1 ≠ pl.acts.length := by simp [h, hupc]
  simp only [stepPlan, ha, if_neg hmore]

/-- Single steps from `UPC` to the end of the list, by induction on the actions still to come. -/
theorem run_remaining {pl : Plan} (hlen : pl.acts.length ≤ 105) {pre rest : List Action} {a : Action} {s : State}
    (hrun : Running pl s) (h : pl.acts = pre ++ a :: rest) (hupc : s.upc.toNat = pre.length) :
    Host.Core.run Sys2Proof.core (rest.length + 1) s =
      .next (finishPlan pl ((runActions (a :: rest) s).setUpc (BitVec.ofNat 7 (pl.acts.length - 1)))) := by
  induction rest generalizing pre a s with
  | nil =>
    have hindex : BitVec.ofNat 7 (pl.acts.length - 1) = (runAction a s).upc := by
      obtain ⟨-, hsame, -⟩ := runAction_frame a s
      rw [hsame, h]
      simp [← hupc]
    rw [List.length_nil, run_of_next 0 (hrun.step.trans (stepPlan_last h hupc)), run_zero, hindex]
    rfl
  | cons b rest ih =>
    have hcount : (s.upc + 1).toNat = (pre ++ [a]).length := by
      have hpre : pre.length < 105 := by
        have := congrArg List.length h
        simp at this
        omega
      simp [BitVec.toNat_add, hupc]
      omega
    rw [List.length_cons, run_of_next _ (hrun.step.trans (stepPlan_more h hupc)),
      ih (hrun.runAction a (s.upc + 1)) (h.trans (List.append_cons pre a (b :: rest))) hcount, runActions_setUpc]
    rfl

/-- The single steps of an accepted command make its one big step (R14). -/
theorem run_acceptCommand {c : CmdWord} {pl : Plan} {s : State} (hp : planOf s.params (decodeCmd28 c) = some pl)
    (hr : s.port.rst = false) (hq : s.port.cmdValid = false) :
    Host.Core.run Sys2Proof.core pl.acts.length (acceptCommand c pl s) = .next (runCommand c pl s) := by
  cases hacts : pl.acts with
  | nil => simp [acceptCommand, runCommand, startPlan, runPlan, hacts, run_zero]
  | cons a rest =>
    have hne : pl.acts ≠ [] := by simp [hacts]
    have hupc : (acceptCommand c pl s).upc.toNat = ([] : List Action).length := by
      simp [acceptCommand, startPlan, hne]
    rw [List.length_cons, run_remaining (kindPlan_of_planOf hp).length_le (running_acceptCommand hp hne hr hq) hacts hupc,
      ← hacts, runCommand, runPlan, if_neg hne]
    rfl

/-- Settles O37: a command word without a plan is refused by both; one with a plan passes the same accept condition in both,
and after it `run_acceptCommand` steps through the list. -/
theorem singleStepsMakeTheWholeCommand : Obligations.SingleStepsMakeTheWholeCommand := by
  intro s hr hb hv hpace
  have haccept : step s = acceptStep s := by simp [step, hr, hb, hv, hpace]
  show Host.Core.run Sys2Proof.core (1 + listLength s.params (presentedCommand s)) s =
    exec (presentedCommand s) (dropCommand s)
  rw [Nat.add_comm]
  cases hp : planOf s.params (presentedCommand s) with
  | none =>
    obtain ⟨x, hx⟩ := planOf_command_eq_none (encode_presentedCommand s) hp
    rw [run_of_refused _ (haccept.trans (acceptStep_reserved hx)), hx]
    rfl
  | some pl =>
    have hlen : listLength s.params (presentedCommand s) = pl.acts.length := by simp [listLength, hp]
    rw [acceptStep_eq_gate hp] at haccept
    rw [exec_eq_gate (s := dropCommand s) (encode_presentedCommand s) hp, hlen]
    by_cases hacc : Accepts (presentedCommand s) (dropCommand s)
    · rw [gate_of_accepts hacc] at haccept ⊢
      rw [run_of_next _ haccept]
      exact run_acceptCommand (s := dropCommand s) hp hr rfl
    · obtain ⟨r, hrefused⟩ := gate_refuses hacc
      rw [run_of_refused _ (haccept.trans (hrefused _)), hrefused]
      rfl

/-! ### A placed command (R131; log 10) -/

/-- No command word is a word on the wire (R50, R60). -/
theorem decodeCmd28_ne_sw25Status (w : CmdWord) (x : BitVec 8) (p : BitVec 17) : decodeCmd28 w ≠ .sw25Status x p := by
  intro h
  have hw := encode_decodeCmd28 w
  rw [h] at hw
  cases hw

theorem decodeTableWord_command {w : Nat} (h : w < 2 ^ 28) :
    decodeTableWord 32 w = some (decodeCmd28 (BitVec.ofNat 28 w)) := by
  have hword : wordOfNat 28 w = .ok (BitVec.ofNat 28 w) := if_pos h
  simp [decodeTableWord, hword]

/-- The port with the command `c` presented. -/
def presentWord (c : CmdWord) (s : State) : State := s.setPort { s.port with rst := false, cmd := c, cmdValid := true }

theorem presentedCommand_presentWord (c : CmdWord) (s : State) : presentedCommand (presentWord c s) = decodeCmd28 c := rfl

theorem placeTableWord_command (s : State) {w : Nat} (h : w < 2 ^ 28) :
    placeTableWord s 32 w = presentWord (BitVec.ofNat 28 w) s := by
  unfold placeTableWord
  rw [decodeTableWord_command h]
  split
  · rename_i x p hx
    exact absurd (Option.some.inj hx) (decodeCmd28_ne_sw25Status _ x p)
  · rfl

theorem readyForCommand_frame (s : State) :
    (readyForCommand s).port = s.port ∧ (readyForCommand s).busy = false ∧ (readyForCommand s).pace = .whole ∧
      (readyForCommand s).params = s.params ∧ (readyForCommand s).trace = s.trace ∧ (readyForCommand s).res = s.res := by
  unfold readyForCommand
  split
  · exact ⟨rfl, rfl, rfl, rfl, rfl, rfl⟩
  · split <;> exact ⟨rfl, rfl, rfl, rfl, rfl, rfl⟩

/-- The state made ready for the presented command accepts it. -/
theorem readyForCommand_accepts (s : State) : Accepts (presentedCommand s) (readyForCommand s) := by
  obtain ⟨-, hb, -⟩ := readyForCommand_frame s
  refine ⟨hb, ?_⟩
  unfold readyForCommand
  split
  · rename_i x hx
    rw [hx]
    exact .inl rfl
  · split
    · exact .inr ‹_›
    · exact .inr rfl

/-- The words below `0xE000000` are those with an `OP` other than `111` (R59, R63). -/
theorem decodeCmd28_ne_reservedOp7 {w : Nat} (h : w < 0xE000000) (x : BitVec 25) :
    decodeCmd28 (BitVec.ofNat 28 w) ≠ .reservedOp7 x := by
  intro hx
  have hw := encode_decodeCmd28 (BitVec.ofNat 28 w)
  rw [hx] at hw
  have hword : cmdWord 7 x = BitVec.ofNat 28 w := FormatWord.cmd28.inj hw
  have hnat := congrArg BitVec.toNat hword
  have happend : (cmdWord 7 x).toNat = 7 * 2 ^ 25 + x.toNat := by
    rw [cmdWord, BitVec.toNat_append, ← Nat.shiftLeft_add_eq_or_of_lt x.isLt, Nat.shiftLeft_eq]
    rfl
  rw [happend, BitVec.toNat_ofNat, Nat.mod_eq_of_lt (by omega)] at hnat
  omega

/-- What `withFetchWord` places: the word, presented to a block that accepts its command in one step. -/
theorem withFetchWord_command (s : State) {w : Nat} (h : w < 2 ^ 28) :
    (s.withFetchWord 32 w).port = { s.port with rst := false, cmd := BitVec.ofNat 28 w, cmdValid := true } ∧
      (s.withFetchWord 32 w).pace = .whole ∧ (s.withFetchWord 32 w).params = s.params ∧
      (s.withFetchWord 32 w).trace = s.trace ∧ (s.withFetchWord 32 w).res = s.res ∧
      Accepts (decodeCmd28 (BitVec.ofNat 28 w)) (s.withFetchWord 32 w) := by
  rw [State.withFetchWord, placeTableWord_command s h]
  obtain ⟨hport, -, hpace, hparams, htrace, hres⟩ := readyForCommand_frame (presentWord (BitVec.ofNat 28 w) s)
  have hacc := readyForCommand_accepts (presentWord (BitVec.ofNat 28 w) s)
  rw [presentedCommand_presentWord] at hacc
  exact ⟨hport, hpace, hparams, htrace, hres, hacc⟩

/-- Every command word but the reserved ones runs to a next state in a block that accepts it. -/
theorem exec_completes_of_accepts {w : Nat} {s : State} (hlt : w < 0xE000000)
    (hacc : Accepts (decodeCmd28 (BitVec.ofNat 28 w)) s) : ∃ t, exec (decodeCmd28 (BitVec.ofNat 28 w)) s = .next t := by
  cases hp : planOf s.params (decodeCmd28 (BitVec.ofNat 28 w)) with
  | none =>
    obtain ⟨x, hx⟩ := planOf_command_eq_none (encode_decodeCmd28 _) hp
    exact absurd hx (decodeCmd28_ne_reservedOp7 hlt x)
  | some pl =>
    rw [exec_eq_gate (encode_decodeCmd28 _) hp]
    exact ⟨_, gate_of_accepts hacc _⟩

/-- Settles O33: the state `withFetchWord` answers presents the word and accepts its command, so the next step runs it. -/
theorem placedCommandRunsAtOnce : Obligations.PlacedCommandRunsAtOnce := by
  intro s w hw
  obtain ⟨hport, hpace, hparams, htrace, hres, ⟨hidle, hready⟩⟩ := withFetchWord_command s hw
  have hpresented : presentedCommand (s.withFetchWord 32 w) = decodeCmd28 (BitVec.ofNat 28 w) := by
    rw [presentedCommand, hport]
  refine ⟨decodeCmd28 (BitVec.ofNat 28 w), dropCommand (s.withFetchWord 32 w), decodeTableWord_command hw, rfl, ?_,
    hparams, htrace, hres, fun hlt => exec_completes_of_accepts hlt ⟨hidle, hready⟩⟩
  rw [← hpresented]
  exact step_presented (by rw [hport]) hidle (by rw [hport]) hpace

/-! ### What an action writes to the pins (R17, R32, R33) -/

/-- The direction bits after a pin operation. -/
def PinOp.writeOe : PinOp → PinBits → PinBits
  | .dir p d, oe => oe.set p (decide (d = .out))
  | _, oe => oe

/-- The latches after a pin operation, when a write of `SR[24]` writes `bit`. -/
def PinOp.writeO (bit : Bool) : PinOp → PinBits → PinBits
  | .wr p l, o => o.set p l
  | .wrSr, o => o.set .data bit
  | _, o => o

theorem shiftIf_pins (b : Bool) (s : State) : (shiftIf b s).oe = s.oe ∧ (shiftIf b s).o = s.o := by
  cases b <;> exact ⟨rfl, rfl⟩

theorem runOp_pins (op : PinOp) (s : State) :
    (runOp op s).oe = op.writeOe s.oe ∧ (runOp op s).o = op.writeO (s.sr.getLsbD 24) s.o := by
  cases op <;> exact ⟨rfl, rfl⟩

theorem runAction_pins (a : Action) (s : State) :
    (runAction a s).oe = a.op.writeOe s.oe ∧ ∃ bit, (runAction a s).o = a.op.writeO bit s.o := by
  obtain ⟨before, op, after⟩ := a
  obtain ⟨hoe₁, ho₁⟩ := shiftIf_pins before s
  obtain ⟨hoe₂, ho₂⟩ := runOp_pins op (shiftIf before s)
  obtain ⟨hoe₃, ho₃⟩ := shiftIf_pins after (runOp op (shiftIf before s))
  exact ⟨by rw [runAction, hoe₃, hoe₂, hoe₁], _, by rw [runAction, ho₃, ho₂, ho₁]⟩

theorem finishPlan_pins (pl : Plan) (s : State) : (finishPlan pl s).oe = s.oe ∧ (finishPlan pl s).o = s.o := by
  obtain ⟨-, -, -, hoe, ho, -⟩ := runFinal_frame pl.final s
  exact ⟨hoe, ho⟩

/-! ### The pins along `TX25` and `RX25`, by the index of the next action (R80, R82) -/

/-- `OE` with `k` actions of a transmit done. -/
def txOe (k : Nat) : PinBits := ⟨false, true, decide (2 ≤ k ∧ k ≤ 102), true⟩

/-- `O` with `k` actions of a transmit done. -/
structure TxLatches (k : Nat) (o : PinBits) : Prop where
  wren : o.wren = decide (1 ≤ k ∧ k ≤ 104)
  clk : o.clk = decide (4 ≤ k ∧ k ≤ 101 ∧ k % 4 ≤ 1)
  data : k ≤ 2 ∨ 104 ≤ k → o.data = true

/-- Only the actions 1 and 102 turn `DATA` round. -/
theorem txOe_succ {k : Nat} (h1 : k ≠ 1) (h102 : k ≠ 102) : txOe (k + 1) = txOe k := by
  have hsame : (2 ≤ k + 1 ∧ k + 1 ≤ 102) ↔ (2 ≤ k ∧ k ≤ 102) := by omega
  simp only [txOe, hsame]

theorem txAction_writeOe (k : Nat) : (txAction k).op.writeOe (txOe k) = txOe (k + 1) := by
  by_cases h1 : k = 1
  · subst h1
    rfl
  · by_cases h102 : k = 102
    · subst h102
      rfl
    · rw [txOe_succ h1 h102, txAction, if_neg h1, if_neg h102]
      split_ifs <;> rfl

theorem txAction_writeO {k : Nat} (hk : k ≤ 104) (bit : Bool) {o : PinBits} (h : TxLatches k o) :
    TxLatches (k + 1) ((txAction k).op.writeO bit o) := by
  obtain ⟨hwren, hclk, hdata⟩ := h
  have keepWren (h0 : k ≠ 0) (h104 : k ≠ 104) : o.wren = decide (1 ≤ k + 1 ∧ k + 1 ≤ 104) :=
    hwren.trans (decide_eq_decide.mpr (by omega))
  have keepClk (h : k % 4 = 3 → k = 103) (h' : k % 4 = 1 → k = 1) :
      o.clk = decide (4 ≤ k + 1 ∧ k + 1 ≤ 101 ∧ (k + 1) % 4 ≤ 1) :=
    hclk.trans (decide_eq_decide.mpr (by omega))
  unfold txAction
  split_ifs
  · exact ⟨(decide_eq_true (by omega)).symm, keepClk (by omega) (by omega), fun _ => hdata (by omega)⟩
  · exact ⟨keepWren (by omega) (by omega), keepClk (by omega) (by omega), fun _ => hdata (by omega)⟩
  · exact ⟨keepWren (by omega) (by omega), keepClk (by omega) (by omega), fun h => absurd h (by omega)⟩
  · exact ⟨keepWren (by omega) (by omega), keepClk (by omega) (by omega), fun _ => rfl⟩
  · exact ⟨(decide_eq_false (by omega)).symm, keepClk (by omega) (by omega), fun _ => hdata (by omega)⟩
  · exact ⟨keepWren (by omega) (by omega), keepClk (by omega) (by omega), fun h => absurd h (by omega)⟩
  · exact ⟨keepWren (by omega) (by omega), (decide_eq_true (by omega)).symm, fun h => absurd h (by omega)⟩
  · exact ⟨keepWren (by omega) (by omega), keepClk (by omega) (by omega), fun h => absurd h (by omega)⟩
  · exact ⟨keepWren (by omega) (by omega), (decide_eq_false (by omega)).symm, fun h => absurd h (by omega)⟩

/-- `O` with `k` actions of a receive done. -/
structure RxLatches (k : Nat) (o : PinBits) : Prop where
  wren : o.wren = decide (k = 2 ∨ k = 3)
  clk : o.clk = decide (7 ≤ k ∧ (k % 4 = 3 ∨ k % 4 = 0))
  data : o.data = true

theorem rxAction_writeOe (k : Nat) (oe : PinBits) : (rxAction k).op.writeOe oe = oe := by
  unfold rxAction
  split_ifs <;> rfl

theorem rxAction_writeO (k : Nat) (bit : Bool) {o : PinBits} (h : RxLatches k o) :
    RxLatches (k + 1) ((rxAction k).op.writeO bit o) := by
  obtain ⟨hwren, hclk, hdata⟩ := h
  have keepWren (h1 : k ≠ 1) (h3 : k ≠ 3) : o.wren = decide (k + 1 = 2 ∨ k + 1 = 3) :=
    hwren.trans (decide_eq_decide.mpr (by omega))
  have keepClk (h : k ≤ 5 ∨ k % 4 = 1 ∨ k % 4 = 3) : o.clk = decide (7 ≤ k + 1 ∧ ((k + 1) % 4 = 3 ∨ (k + 1) % 4 = 0)) :=
    hclk.trans (decide_eq_decide.mpr (by omega))
  unfold rxAction
  split_ifs
  · exact ⟨keepWren (by omega) (by omega), keepClk (by omega), hdata⟩
  · exact ⟨(decide_eq_true (by omega)).symm, keepClk (by omega), hdata⟩
  · exact ⟨(decide_eq_false (by omega)).symm, keepClk (by omega), hdata⟩
  · exact ⟨keepWren (by omega) (by omega), keepClk (by omega), hdata⟩
  · exact ⟨keepWren (by omega) (by omega), (decide_eq_true (by omega)).symm, hdata⟩
  · exact ⟨keepWren (by omega) (by omega), keepClk (by omega), hdata⟩
  · exact ⟨keepWren (by omega) (by omega), (decide_eq_false (by omega)).symm, hdata⟩
  · exact ⟨keepWren (by omega) (by omega), keepClk (by omega), hdata⟩

/-! ### The invariant by the kind of the running list -/

/-- The invariant's clause of an idle block (R22, R24). -/
abbrev IdleInv (s : State) : Prop :=
  (s.configured = true → IdlePins s) ∧ (s.configured = false → s.oe = PinBits.zero)

/-- The invariant's clause of a busy block, for the kind of the latched command. -/
def KindPins : ListKind → State → Prop
  | .init, s => InitPins s
  | .transmit, s => TransmitPins s
  | .receive, s => ReceivePins s
  | .stereo, s => s.configured = true ∧ s.upc = 0 ∧ IdlePins s
  | .none, _ => False

theorem sequencerInv_iff (s : State) :
    SequencerInv s ↔
      (s.busy = false → IdleInv s) ∧ (s.busy = true → KindPins (listKind (latchedCommand s)) s) := by
  refine and_congr Iff.rfl (imp_congr Iff.rfl ?_)
  cases listKind (latchedCommand s) <;> simp [KindPins]

theorem sequencerInv_of_idle {s : State} (hb : s.busy = false) (h : IdleInv s) : SequencerInv s :=
  (sequencerInv_iff s).mpr ⟨fun _ => h, fun hb' => by simp [hb] at hb'⟩

theorem sequencerInv_of_busy {s : State} (hb : s.busy = true) (h : KindPins (listKind (latchedCommand s)) s) :
    SequencerInv s :=
  (sequencerInv_iff s).mpr ⟨fun hb' => by simp [hb] at hb', fun _ => h⟩

theorem kindPins_setPort (k : ListKind) (s : State) (p : HostPort) : KindPins k (s.setPort p) ↔ KindPins k s := by
  cases k <;> exact Iff.rfl

/-- A transmit's clause in terms of the pins with `UPC` actions done. -/
theorem transmitPins_iff (s : State) :
    TransmitPins s ↔ s.configured = true ∧ s.upc.toNat ≤ 104 ∧ s.oe = txOe s.upc.toNat ∧ TxLatches s.upc.toNat s.o := by
  constructor
  · rintro ⟨hconf, hupc, hoe, hwren, hclk, hdata⟩
    exact ⟨hconf, hupc, hoe, by simp [hwren, hupc], hclk, fun h => hdata (by omega)⟩
  · rintro ⟨hconf, hupc, hoe, hwren, hclk, hdata⟩
    exact ⟨hconf, hupc, hoe, by simp [hwren, hupc], hclk, fun h => hdata (by omega)⟩

/-- A receive's clause in the same terms. -/
theorem receivePins_iff (s : State) :
    ReceivePins s ↔
      s.configured = true ∧ s.upc.toNat ≤ 101 ∧ s.oe = ⟨false, true, false, true⟩ ∧ RxLatches s.upc.toNat s.o := by
  constructor
  · rintro ⟨hconf, hupc, hoe, hdata, hwren, hclk⟩
    exact ⟨hconf, hupc, hoe, hwren, hclk, hdata⟩
  · rintro ⟨hconf, hupc, hoe, hwren, hclk, hdata⟩
    exact ⟨hconf, hupc, hoe, hdata, hwren, hclk⟩

/-! ### `UPC` stays inside the list (R14) -/

theorem KindPins.upc_lt {k : ListKind} {pl : Plan} {s : State} (hpl : KindPlan k pl) (h : KindPins k s) :
    s.upc.toNat < pl.acts.length := by
  cases hpl with
  | init =>
    obtain ⟨hupc, -⟩ := h
    exact Nat.lt_succ_of_le hupc
  | transmit w =>
    obtain ⟨-, hupc, -⟩ := h
    rw [planTransmit, tx25_length]
    omega
  | receive f =>
    obtain ⟨-, hupc, -⟩ := h
    rw [rx25_length]
    omega
  | stereo =>
    obtain ⟨-, hupc, -⟩ := h
    rw [hupc]
    decide
  | none => exact h.elim

theorem upc_succ {k : ListKind} {pl : Plan} {s : State} (hpl : KindPlan k pl) (h : s.upc.toNat < pl.acts.length) :
    (s.upc + 1).toNat = s.upc.toNat + 1 := by
  have hlen := hpl.length_le
  simp [BitVec.toNat_add]
  omega

/-! ### `INIT` (R70) -/

/-- No action of `INIT` changes a pin that is already as `INIT` leaves it. -/
theorem idlePins_runAction_init {a : Action} (ha : a ∈ initActions) {s : State} (h : IdlePins s) :
    IdlePins (runAction a s) := by
  obtain ⟨hoe, hclk, hdata, hwren⟩ := h
  obtain ⟨hoe', bit, ho'⟩ := runAction_pins a s
  rw [IdlePins, hoe', ho', hoe]
  simp only [initActions, List.mem_cons, List.not_mem_nil, or_false] at ha
  rcases ha with rfl | rfl | rfl | rfl | rfl | rfl | rfl <;>
    simp [plain, PinOp.writeOe, PinOp.writeO, hclk, hdata, hwren]

/-- Each action of `INIT` before the last one gives the pins the clause of its index and keeps the earlier ones. -/
theorem initPins_action {s : State} {a : Action} (h : InitPins s) (ha : initActions[s.upc.toNat]? = some a)
    (hmore : s.upc.toNat + 1 ≠ 7) (hsucc : (s.upc + 1).toNat = s.upc.toNat + 1) :
    InitPins ((runAction a s).setUpc (s.upc + 1)) := by
  obtain ⟨hupc, hdata, hmost, hclk, hclkO, hdataO, hwren, hidle⟩ := h
  have hidle' : (runAction a s).configured = true → IdlePins (runAction a s) := by
    obtain ⟨-, -, -, hconf, -⟩ := runAction_frame a s
    exact fun hc => idlePins_runAction_init (List.mem_of_getElem? ha) (hidle (hconf ▸ hc))
  obtain ⟨hoe, bit, ho⟩ := runAction_pins a s
  refine ⟨?_, ?_, ?_, ?_, ?_, ?_, ?_, hidle'⟩ <;>
    simp only [State.setUpc_upc, State.setUpc_oe, State.setUpc_o, hsucc, hoe, ho]
  · omega
  all_goals
    generalize s.upc.toNat = k at *
    interval_cases k <;> cases ha <;> simp_all [plain, PinOp.writeOe, PinOp.writeO]

/-- The last action of `INIT` completes the idle pins. -/
theorem idlePins_initLast {s : State} {a : Action} (h : InitPins s) (ha : initActions[s.upc.toNat]? = some a)
    (hlast : s.upc.toNat = 6) : IdlePins (runAction a s) := by
  obtain ⟨-, hdata, hmost, hclk, hclkO, hdataO, hwren, -⟩ := h
  rw [hlast] at ha hmost hclk hclkO hdataO hwren
  cases ha
  obtain ⟨hoe, bit, ho⟩ := runAction_pins (plain (.wr .wren false)) s
  have hoe' : s.oe = ⟨false, true, false, true⟩ :=
    PinBits.mk.injEq .. ▸ ⟨hmost (by omega), hclk (by omega), hdata, hwren (by omega)⟩
  rw [IdlePins, hoe, ho]
  exact ⟨hoe', hclkO (by omega), hdataO (by omega), rfl⟩

/-! ### The transmit (R80) -/

theorem txLatches_runAction {s : State} (h : TxLatches s.upc.toNat s.o) (hupc : s.upc.toNat ≤ 104) :
    TxLatches (s.upc.toNat + 1) (runAction (txAction s.upc.toNat) s).o := by
  obtain ⟨-, bit, ho⟩ := runAction_pins (txAction s.upc.toNat) s
  rw [ho]
  exact txAction_writeO hupc bit h

theorem txOe_runAction {s : State} (h : s.oe = txOe s.upc.toNat) :
    (runAction (txAction s.upc.toNat) s).oe = txOe (s.upc.toNat + 1) := by
  obtain ⟨hoe, -⟩ := runAction_pins (txAction s.upc.toNat) s
  rw [hoe, h, txAction_writeOe]

/-- With all 105 actions done the pins are idle. -/
theorem idlePins_txEnd {s : State} (hoe : s.oe = txOe 105) (ho : TxLatches 105 s.o) : IdlePins s := by
  obtain ⟨hwren, hclk, hdata⟩ := ho
  exact ⟨hoe, hclk, hdata (by omega), hwren⟩

/-! ### The receive (R82) -/

theorem rxLatches_runAction {s : State} (h : RxLatches s.upc.toNat s.o) :
    RxLatches (s.upc.toNat + 1) (runAction (rxAction s.upc.toNat) s).o := by
  obtain ⟨-, bit, ho⟩ := runAction_pins (rxAction s.upc.toNat) s
  rw [ho]
  exact rxAction_writeO _ bit h

theorem rxOe_runAction (s : State) : (runAction (rxAction s.upc.toNat) s).oe = s.oe := by
  obtain ⟨hoe, -⟩ := runAction_pins (rxAction s.upc.toNat) s
  rw [hoe, rxAction_writeOe]

/-- With all 102 actions done the pins are idle. -/
theorem idlePins_rxEnd {s : State} (hoe : s.oe = ⟨false, true, false, true⟩) (ho : RxLatches 102 s.o) : IdlePins s := by
  obtain ⟨hwren, hclk, hdata⟩ := ho
  exact ⟨hoe, hclk, hdata, hwren⟩

/-! ### The steps of a running list -/

/-- An action before the last one keeps the clause of the running list. -/
theorem kindPins_action {k : ListKind} {pl : Plan} {s : State} {a : Action} (hpl : KindPlan k pl) (h : KindPins k s)
    (ha : pl.acts[s.upc.toNat]? = some a) (hmore : s.upc.toNat + 1 ≠ pl.acts.length) :
    KindPins k ((runAction a s).setUpc (s.upc + 1)) := by
  have hlt := h.upc_lt hpl
  have hsucc := upc_succ hpl hlt
  obtain ⟨-, -, -, hconf, -⟩ := runAction_frame a s
  cases hpl with
  | init => exact initPins_action h ha hmore hsucc
  | transmit w =>
    rw [planTransmit, tx25_length] at hlt hmore
    cases ha.symm.trans (tx25_getElem _ hlt)
    obtain ⟨hc, hupc, hoe, ho⟩ := (transmitPins_iff s).mp h
    refine (transmitPins_iff _).mpr ⟨hconf.trans hc, ?_, ?_, ?_⟩ <;> rw [State.setUpc_upc, hsucc]
    · omega
    · exact txOe_runAction hoe
    · exact txLatches_runAction ho hupc
  | receive f =>
    rw [rx25_length] at hlt hmore
    cases ha.symm.trans (rx25_getElem _ hlt)
    obtain ⟨hc, hupc, hoe, ho⟩ := (receivePins_iff s).mp h
    refine (receivePins_iff _).mpr ⟨hconf.trans hc, ?_, (rxOe_runAction s).trans hoe, ?_⟩ <;> rw [State.setUpc_upc, hsucc]
    · omega
    · exact rxLatches_runAction ho
  | stereo =>
    obtain ⟨-, hupc, -⟩ := h
    rw [hupc] at hmore
    exact absurd rfl hmore
  | none => exact h.elim

theorem idleInv_of_idlePins {s : State} (hc : s.configured = true) (h : IdlePins s) : IdleInv s :=
  ⟨fun _ => h, fun hc' => by simp [hc] at hc'⟩

/-- After the last action and the final writes the block is configured and its pins are idle. -/
theorem idleInv_lastAction {k : ListKind} {pl : Plan} {s : State} {a : Action} (hpl : KindPlan k pl) (h : KindPins k s)
    (ha : pl.acts[s.upc.toNat]? = some a) (hlast : s.upc.toNat + 1 = pl.acts.length) :
    IdleInv (finishPlan pl (runAction a s)) := by
  have hlt := h.upc_lt hpl
  obtain ⟨hoe, ho⟩ := finishPlan_pins pl (runAction a s)
  have hconf : (finishPlan pl (runAction a s)).configured = (s.configured || decide (pl.final = .setConfigured)) := by
    obtain ⟨-, -, -, hsame, -⟩ := runAction_frame a s
    rw [finishPlan_configured, hsame]
  have hkeep (hc : s.configured = true) (hidle : IdlePins (runAction a s)) : IdleInv (finishPlan pl (runAction a s)) :=
    idleInv_of_idlePins (by simp [hconf, hc]) (by rw [IdlePins, hoe, ho]; exact hidle)
  cases hpl with
  | init =>
    refine idleInv_of_idlePins (hconf.trans (Bool.or_true _)) ?_
    rw [IdlePins, hoe, ho]
    exact idlePins_initLast h ha (Nat.succ.inj hlast)
  | transmit w =>
    rw [planTransmit, tx25_length] at hlt hlast
    cases ha.symm.trans (tx25_getElem _ hlt)
    obtain ⟨hc, hupc, hoe, ho⟩ := (transmitPins_iff s).mp h
    exact hkeep hc (idlePins_txEnd (hlast ▸ txOe_runAction hoe) (hlast ▸ txLatches_runAction ho hupc))
  | receive f =>
    rw [rx25_length] at hlt hlast
    cases ha.symm.trans (rx25_getElem _ hlt)
    obtain ⟨hc, -, hoe, ho⟩ := (receivePins_iff s).mp h
    exact hkeep hc (idlePins_rxEnd ((rxOe_runAction s).trans hoe) (hlast ▸ rxLatches_runAction ho))
  | stereo =>
    obtain ⟨hc, hupc, hidle⟩ := h
    rw [hupc] at ha
    cases ha
    exact hkeep hc hidle
  | none => exact h.elim

/-! ### The start of a list, and a whole command -/

/-- An accepted command with a list starts with the clause of its kind. -/
theorem kindPins_accept {k : ListKind} {pl : Plan} {s : State} (hpl : KindPlan k pl) (hne : pl.acts ≠ [])
    (hidle : IdleInv s) (hready : k = .init ∨ s.configured = true) (c : CmdWord) :
    KindPins k (acceptCommand c pl s) := by
  have hstart : acceptCommand c pl s = ((loadSr pl.load (s.setCmdl c)).setUpc 0).setBusy true := if_neg hne
  obtain ⟨hpins, hzero⟩ := hidle
  rw [hstart]
  cases hpl with
  | init =>
    have hdata : s.oe.data = false := by
      cases hc : s.configured with
      | true => rw [(hpins hc).1]
      | false => rw [hzero hc]; rfl
    refine ⟨?_, hdata, ?_, ?_, ?_, ?_, ?_, hpins⟩ <;> simp
  | transmit w =>
    have hc := hready.resolve_left (by decide)
    obtain ⟨hoe, hclk, hdata, hwren⟩ := hpins hc
    exact ⟨hc, Nat.zero_le _, hoe, hwren, hclk, fun _ => hdata⟩
  | receive f =>
    have hc := hready.resolve_left (by decide)
    obtain ⟨hoe, hclk, hdata, hwren⟩ := hpins hc
    exact ⟨hc, Nat.zero_le _, hoe, hdata, hwren, hclk⟩
  | stereo =>
    have hc := hready.resolve_left (by decide)
    exact ⟨hc, rfl, hpins hc⟩
  | none => exact absurd rfl hne

theorem idlePins_received {s : State} (h : IdlePins s) : IdlePins (received s) := by
  obtain ⟨hoe, -, hdata, -⟩ := h
  rw [received_eq]
  exact ⟨hoe, rfl, hdata, rfl⟩

theorem idlePins_runPlan_receive (f : Final) {s : State} (h : IdlePins s) : IdlePins (runPlan ⟨none, rx25, f⟩ s) := by
  have hundriven : s.oe.data = false := by rw [h.1]
  obtain ⟨-, -, -, hoe, ho, -⟩ := runFinal_frame f (received s)
  rw [runPlan_receive f s hundriven, IdlePins, State.setBusy_oe, State.setBusy_o, hoe, ho]
  exact idlePins_received h

/-- A whole command keeps the clause of an idle block. -/
theorem idleInv_command {k : ListKind} {pl : Plan} {s : State} (hpl : KindPlan k pl) (hidle : IdleInv s)
    (hready : k = .init ∨ s.configured = true) (c : CmdWord) : IdleInv (runCommand c pl s) := by
  obtain ⟨hpins, hzero⟩ := hidle
  rw [runCommand]
  cases hpl with
  | init =>
    rw [runPlan_init]
    exact idleInv_of_idlePins rfl ⟨rfl, rfl, rfl, rfl⟩
  | transmit w =>
    have hc := hready.resolve_left (by decide)
    obtain ⟨hoe, -⟩ := hpins hc
    rw [runPlan_transmit]
    exact idleInv_of_idlePins hc ⟨by simp [transmitted, hoe], rfl, rfl, rfl⟩
  | receive f =>
    have hc := hready.resolve_left (by decide)
    refine idleInv_of_idlePins ?_ (idlePins_runPlan_receive f (hpins hc))
    rw [runPlan_configured, State.setCmdl_configured, hc, Bool.true_or]
  | stereo =>
    have hc := hready.resolve_left (by decide)
    exact idleInv_of_idlePins hc (hpins hc)
  | none =>
    rw [runPlan_empty]
    exact ⟨hpins, hzero⟩

/-! ### The invariant along every step (R14, R22, R24, R45, R46) -/

/-- Settles O40, over everything a step can be: reset and a whole command end idle, an accept starts the list with the clause
of its kind, an action moves one index along it or ends it, and the host moves no pin. -/
theorem stepKeepsTheSequencerInvariant : Obligations.StepKeepsTheSequencerInvariant := by
  intro s t hinv h
  obtain ⟨hidle, hbusy⟩ := (sequencerInv_iff s).mp hinv
  cases stepsTo_of_step h with
  | reset hr => exact sequencerInv_of_idle rfl ⟨nofun, fun _ => rfl⟩
  | @action pl a hr hb hpl ha hmore =>
    have hpins : KindPins (listKind (latchedCommand s)) (dropCommand s) := (kindPins_setPort _ s _).mpr (hbusy hb)
    obtain ⟨hcmdl, -, hbusy', -⟩ := runAction_frame a (dropCommand s)
    refine sequencerInv_of_busy (hbusy'.trans hb) ?_
    have hlatched : latchedCommand ((runAction a (dropCommand s)).setUpc (s.upc + 1)) = latchedCommand s :=
      congrArg decodeCmd28 hcmdl
    rw [hlatched]
    exact kindPins_action hpl hpins ha hmore
  | @lastAction pl a hr hb hpl ha hlast =>
    have hpins : KindPins (listKind (latchedCommand s)) (dropCommand s) := (kindPins_setPort _ s _).mpr (hbusy hb)
    exact sequencerInv_of_idle rfl (idleInv_lastAction hpl hpins ha hlast)
  | @command pl hr hpl hacc =>
    obtain ⟨hb, hready⟩ := hacc
    have hdone := runCommand_completes s.port.cmd pl (s := dropCommand s) hb
    exact sequencerInv_of_idle hdone.idle (idleInv_command (s := dropCommand s) hpl (hidle hb) hready s.port.cmd)
  | @accept pl hr hpl hacc =>
    obtain ⟨hb, hready⟩ := hacc
    by_cases hne : pl.acts = []
    · have hsame : acceptCommand s.port.cmd pl (dropCommand s) = (dropCommand s).setCmdl s.port.cmd := if_pos hne
      rw [hsame]
      exact sequencerInv_of_idle hb (hidle hb)
    · have hstarted : (acceptCommand s.port.cmd pl (dropCommand s)).busy = true := by
        simp [acceptCommand, startPlan, hne]
      have hlatched : latchedCommand (acceptCommand s.port.cmd pl (dropCommand s)) = presentedCommand s :=
        congrArg decodeCmd28 (startPlan_cmdl pl _)
      refine sequencerInv_of_busy hstarted ?_
      rw [hlatched]
      exact kindPins_accept (s := dropCommand s) hpl hne (hidle hb) hready s.port.cmd
  | host hr =>
    obtain ⟨p, hp⟩ := hostMove_frame s
    rw [hp]
    exact (sequencerInv_iff _).mpr ⟨hidle, fun hb => (kindPins_setPort _ s p).mpr (hbusy hb)⟩

theorem stepPlan_ne_fault {pl : Plan} {s : State} (h : s.upc.toNat < pl.acts.length) (f : Fault) :
    stepPlan pl s ≠ .fault f := by
  rw [stepPlan, List.getElem?_eq_getElem h]
  dsimp only
  split <;> exact nofun

theorem gate_ne_fault (i : Instr) (s : State) (k : State → State) (f : Fault) : gate i s k ≠ .fault f := by
  by_cases hacc : Accepts i s
  · rw [gate_of_accepts hacc]
    exact nofun
  · obtain ⟨r, hr⟩ := gate_refuses hacc
    rw [hr]
    exact nofun

theorem exec_ne_fault (i : Instr) (s : State) (f : Fault) : exec i s ≠ .fault f := by
  obtain ⟨r, hr⟩ | ⟨t, ht, -⟩ := exec_outcome i s
  · rw [hr]
    exact nofun
  · rw [ht]
    exact nofun

theorem acceptStep_ne_fault (s : State) (f : Fault) : acceptStep s ≠ .fault f := by
  cases hp : planOf s.params (presentedCommand s) with
  | none =>
    obtain ⟨x, hx⟩ := planOf_command_eq_none (encode_presentedCommand s) hp
    rw [acceptStep_reserved hx]
    exact nofun
  | some pl =>
    rw [acceptStep_eq_gate hp]
    exact gate_ne_fault _ _ _ f

/-- A running command with the clause of its kind has an action at `UPC`. -/
theorem busyStep_ne_fault {s : State} (h : KindPins (listKind (latchedCommand s)) s) (f : Fault) :
    busyStep s ≠ .fault f := by
  have hkind : listKind (latchedCommand s) ≠ .none := fun hk => by
    rw [hk] at h
    exact h
  obtain ⟨pl, hp⟩ := planOf_of_kind (params := s.params) hkind
  have hlt : s.upc.toNat < pl.acts.length := h.upc_lt (kindPlan_of_planOf hp)
  rw [busyStep, hp]
  exact stepPlan_ne_fault (s := dropCommand s) hlt f

/-- Settles O41: only a busy step can fault, and under the invariant `UPC` is inside the running list. -/
theorem invariantStatesNeverFault : Obligations.InvariantStatesNeverFault := by
  intro s f hinv
  obtain ⟨-, hbusy⟩ := (sequencerInv_iff s).mp hinv
  unfold step
  split
  · exact nofun
  · split
    · exact busyStep_ne_fault (hbusy ‹_›) f
    · split
      · split
        · exact exec_ne_fault _ _ f
        · exact acceptStep_ne_fault s f
      · exact nofun

end Sys2Proof.Machine

/-! # The wire (20_memory.md): the order of the bits, the counts of a transfer, and when `DATA` and `WREN` are driven

Three facts carry the proofs. `SR` after a receive holds the samples in the reverse of their order (`wordOfBits_getLsbD`), so it
inverts the order of a transmit (`wordOfBits_bitsOfWord`). The trace of a transfer is a fixed frame, one entry for each bit and
the clock pulses, and is counted so (`count_txTrace`, `count_rxTrace`). The invariant gives the pins of each kind of list
(`sequencerInv_iff`). -/

namespace Sys2Proof.Machine

open Sys2Proof Sys2Proof.Safety

/-! ### The order of the bits on the wire (R36) -/

theorem wordOfBits_concat (bits : List Bool) (b : Bool) :
    wordOfBits (bits ++ [b]) = wordOfBits bits <<< 1 ||| (BitVec.ofBool b).setWidth 25 := by
  simp [wordOfBits]

/-- Bit `i` of the word is the sample taken `i` samples before the last one, by induction on the samples in the order of time:
one more sample moves every earlier one up by one bit. -/
theorem wordOfBits_getLsbD (bits : List Bool) {i : Nat} (hi : i < 25) :
    (wordOfBits bits).getLsbD i = bits.reverse.getD i false := by
  induction bits using List.reverseRecOn generalizing i with
  | nil => simp [wordOfBits]
  | append_singleton bits b ih =>
    rw [wordOfBits_concat]
    cases i with
    | zero => simp
    | succ i =>
      rw [BitVec.getLsbD_or, BitVec.getLsbD_shiftLeft, Nat.add_sub_cancel, ih (Nat.lt_of_succ_lt hi)]
      simp [hi]

/-- Settles O11, by `wordOfBits_getLsbD`: of 25 samples, sample `k` is the one `24 - k` samples before the last. -/
theorem receivedBitsAreMsbFirst : Obligations.ReceivedBitsAreMsbFirst := by
  intro bits k hlen hk
  have hindex : bits.length - 1 - (24 - k) = k := by omega
  rw [wordOfBits_getLsbD bits (by omega), List.getD_eq_getElem?_getD, List.getElem?_reverse (by omega), hindex,
    List.getD_eq_getElem?_getD]

theorem bitsOfWord_length (w : Word25) : (bitsOfWord w).length = 25 := by
  simp [bitsOfWord]

/-- A word that is sent bit by bit and collected again is the same word (R84). -/
theorem wordOfBits_bitsOfWord (w : Word25) : wordOfBits (bitsOfWord w) = w := by
  apply BitVec.eq_of_getLsbD_eq
  intro i hi
  have hk : 24 - i < 25 := by omega
  have hindex : 24 - (24 - i) = i := by omega
  have hbit := receivedBitsAreMsbFirst (bitsOfWord w) (24 - i) (bitsOfWord_length w) (by omega)
  rw [hindex] at hbit
  rw [hbit]
  simp [bitsOfWord, hk, hindex]

/-! ### The two transfers of a ready block (R81, R83) -/

theorem exec_write_of_ready {s : State} (v : Word25) (h : Ready s) :
    exec (.write v) s = .next (transmitted v (s.setCmdl (cmdWord 1 v))) :=
  (whenReady_of_ready _ h).trans (congrArg _ (runPlan_transmit v _))

theorem exec_read_of_ready {s : State} (x : BitVec 25) (h : Ready s) (hoe : s.oe.data = false) :
    exec (.read x) s = .next ((runFinal .resFromSr (received (s.setCmdl (cmdWord 2 x)))).setBusy false) :=
  (whenReady_of_ready _ h).trans (congrArg _ (runPlan_receive .resFromSr _ hoe))

/-! ### The levels a transmit writes to `DATA` (R80) -/

theorem dataLevels_append (xs ys : List PinAction) : dataLevels (xs ++ ys) = dataLevels xs ++ dataLevels ys := by
  simp [dataLevels]

theorem dataLevels_sentBits (bits : List Bool) :
    dataLevels (bits.flatMap fun b => .wr .data b :: pulseTrace) = bits := by
  induction bits with
  | nil => rfl
  | cons b bits ih =>
    rw [List.flatMap_cons, dataLevels_append, ih]
    rfl

/-- The 25 bits, then the idle level. -/
theorem dataLevels_txTrace (w : Word25) : dataLevels (txTrace w) = bitsOfWord w ++ [true] := by
  rw [txTrace, dataLevels_append, dataLevels_append, dataLevels_sentBits]
  rfl

theorem take_dataLevels_txTrace (w : Word25) : (dataLevels (txTrace w)).take 25 = bitsOfWord w := by
  rw [dataLevels_txTrace, List.take_left' (bitsOfWord_length w)]

/-- The answers of an environment that has placed the bits of one word and nothing else. -/
theorem answers_bitsOfWord (w : Word25) {e : Env} (h : e.dataIn = bitsOfWord w) :
    e.answers .data 25 = (bitsOfWord w, { e with dataIn := [] }) := by
  have hplaced := answers_placed (bitsOfWord w) [] e (by rw [h, List.append_nil])
  rwa [bitsOfWord_length] at hplaced

/-- A receive whose placed answers are the bits of a word takes all of them and holds the word. -/
theorem received_bitsOfWord (w : Word25) {s : State} (h : s.env.dataIn = bitsOfWord w) :
    (received s).sr = w ∧ (received s).env.dataIn = [] := by
  rw [received_eq, answers_bitsOfWord w h]
  exact ⟨wordOfBits_bitsOfWord w, rfl⟩

/-- Settles O30: the transmit writes the bits of the word (`take_dataLevels_txTrace`), and the receive that takes them as its
samples holds the word again (`received_bitsOfWord`). -/
theorem writeThenReadReproducesTheWord : Obligations.WriteThenReadReproducesTheWord := by
  intro v x s hready
  have ⟨_, hconf⟩ := hready
  refine ⟨_, txTrace v, exec_write_of_ready v hready, rfl, _, exec_read_of_ready x ⟨rfl, hconf⟩ rfl, ?_⟩
  rw [take_dataLevels_txTrace]
  generalize hs : State.setCmdl _ (cmdWord 2 x) = r
  obtain ⟨hsr, hempty⟩ := received_bitsOfWord v (s := r) (by rw [← hs]; rfl)
  simp [runFinal, hsr, hempty]

/-! ### What a transfer adds to the trace, counted (R37) -/

/-- Groups of actions of which each is the one entry of a bit and a fixed rest, here the clock pulse. -/
theorem count_flatMap_entry {f : Bool → PinAction} {group : Bool → List PinAction} {a : PinAction} {n : Nat}
    (h : ∀ b, (group b).count a = [f b].count a + n) (bits : List Bool) :
    (bits.flatMap group).count a = (bits.map f).count a + bits.length * n := by
  induction bits with
  | nil => simp
  | cons b bits ih =>
    simp only [List.flatMap_cons, List.count_append, h, ih, List.map_cons, List.count_cons, List.count_nil, List.length_cons]
    ring

/-- A transmit: its frame, one `DATA` write for each bit and 25 clock pulses. -/
theorem count_txTrace (a : PinAction) (w : Word25) :
    (txTrace w).count a =
      [.wr .wren true, .dir .data .out, .dir .data .inp, .wr .data true, .wr .wren false].count a +
        ((bitsOfWord w).map (PinAction.wr .data)).count a + 25 * pulseTrace.count a := by
  have hgroup (b : Bool) : (PinAction.wr .data b :: pulseTrace).count a = [PinAction.wr .data b].count a + pulseTrace.count a :=
    List.count_append (l₁ := [PinAction.wr .data b])
  simp only [txTrace, List.count_append, count_flatMap_entry hgroup, bitsOfWord_length, List.count_cons, List.count_nil]
  ring

/-- A receive: its frame, one sample for each bit and a clock pulse for each bit but the first. -/
theorem count_rxTrace (a : PinAction) (b : Bool) (rest : List Bool) :
    (rxTrace (b :: rest)).count a =
      [.delay .tSettle, .wr .wren true, .delay .tSettle, .wr .wren false, .delay .tSettle].count a +
        ((b :: rest).map (PinAction.rd .data)).count a + rest.length * pulseTrace.count a := by
  have hgroup (b : Bool) : (pulseTrace ++ [PinAction.rd .data b]).count a = [PinAction.rd .data b].count a + pulseTrace.count a :=
    List.count_append.trans (Nat.add_comm _ _)
  simp only [rxTrace, List.count_append, count_flatMap_entry hgroup, List.count_cons, List.map_cons]
  ring

/-- Every bit sent or sampled is high or low, so the entries of the two levels are all of them. -/
theorem count_levels {f : Bool → PinAction} (hf : Function.Injective f) (bits : List Bool) :
    (bits.map f).count (f true) + (bits.map f).count (f false) = bits.length := by
  rw [List.count_map_of_injective _ f hf, List.count_map_of_injective _ f hf, List.count_true_add_count_false]

theorem count_map_of_ne {f : Bool → PinAction} {a : PinAction} (h : ∀ b, f b ≠ a) (bits : List Bool) :
    (bits.map f).count a = 0 :=
  List.count_eq_zero.mpr (by simpa using fun b _ => h b)

/-- A transmit writes `DATA` once for each bit and once for the idle level. -/
theorem count_txTrace_dataWrites (w : Word25) :
    (txTrace w).count (.wr .data true) + (txTrace w).count (.wr .data false) = 26 := by
  have hlevels := count_levels (f := .wr .data) (fun _ _ => by simp) (bitsOfWord w)
  rw [bitsOfWord_length] at hlevels
  rw [count_txTrace, count_txTrace]
  change 1 + _ + 25 * 0 + (0 + _ + 25 * 0) = 26
  omega

/-- A receive reads `DATA` once for each bit. -/
theorem count_rxTrace_samples (b : Bool) (rest : List Bool) :
    (rxTrace (b :: rest)).count (.rd .data true) + (rxTrace (b :: rest)).count (.rd .data false) = rest.length + 1 := by
  have hlevels := count_levels (f := .rd .data) (fun _ _ => by simp) (b :: rest)
  rw [List.length_cons] at hlevels
  rw [count_rxTrace, count_rxTrace]
  change 0 + _ + rest.length * 0 + (0 + _ + rest.length * 0) = _
  omega

/-- Settles O28: `count_txTrace` for each action; only a `DATA` write can be the entry of a bit. -/
theorem transmitCounts : Obligations.TransmitCounts := by
  intro v s t hready h
  cases (exec_write_of_ready v hready).symm.trans h
  refine ⟨txTrace v, rfl, ?_, ?_, count_txTrace_dataWrites v, ?_, ?_, ?_, ?_, fun p b => ?_⟩
  all_goals
    rw [count_txTrace, count_map_of_ne (by simp)]
    simp [pulseTrace]

/-- A receive takes at least its first sample. -/
theorem answers_succ (p : Pin) (n : Nat) (e : Env) :
    ∃ b rest, (e.answers p (n + 1)).1 = b :: rest ∧ rest.length = n :=
  ⟨_, _, rfl, answers_length p n _⟩

/-- What a receive adds to the trace, from a state in which the block does not drive `DATA`. -/
theorem trace_of_exec_read {x : BitVec 25} {s t : State} (hready : Ready s) (hoe : s.oe.data = false)
    (h : exec (.read x) s = .next t) : t.trace = s.trace ++ rxTrace (s.env.answers .data 25).1 := by
  cases (exec_read_of_ready x hready hoe).symm.trans h
  rw [received_setCmdl, received_eq]
  rfl

/-- Settles O29: `count_rxTrace` for each action; only a read of `DATA` can be the entry of a bit. -/
theorem receiveCounts : Obligations.ReceiveCounts := by
  intro x s t hready hoe h
  have htrace := trace_of_exec_read hready hoe h
  obtain ⟨b, rest, hbits, hlen⟩ := answers_succ .data 24 s.env
  rw [hbits] at htrace
  have hsamples := count_rxTrace_samples b rest
  rw [hlen] at hsamples
  refine ⟨rxTrace (b :: rest), htrace, hsamples, ?_, ?_, ?_, ?_, fun p d => ?_, fun l => ?_⟩
  all_goals
    rw [count_rxTrace, count_map_of_ne (by simp), hlen]
    simp [pulseTrace]

/-! ### The two lines under the invariant (R45, R46) -/

theorem driven_eq_some_true_iff (s : State) (p : Pin) :
    driven s p = some true ↔ s.oe.get p = true ∧ s.o.get p = true := by
  cases h : s.oe.get p <;> simp [driven, h]

/-- An idle block does not drive `DATA`, configured or not. -/
theorem IdleInv.data_undriven {s : State} (h : IdleInv s) : s.oe.data = false := by
  obtain ⟨hidle, hreset⟩ := h
  cases hc : s.configured with
  | true =>
    obtain ⟨hoe, -⟩ := hidle hc
    rw [hoe]
  | false =>
    rw [hreset hc]
    rfl

/-- Of the lists only a transmit drives `DATA`, with 2 to 102 of its actions done, and `WREN` is high then. -/
theorem KindPins.data_driven {k : ListKind} {s : State} (h : KindPins k s) (hdata : s.oe.data = true) :
    k = .transmit ∧ 2 ≤ s.upc.toNat ∧ s.upc.toNat ≤ 102 ∧ driven s .wren = some true := by
  cases k with
  | init =>
    obtain ⟨-, hoe, -⟩ := h
    simp [hoe] at hdata
  | transmit =>
    obtain ⟨-, -, hoe, hwren, -⟩ := h
    have hupc : 2 ≤ s.upc.toNat ∧ s.upc.toNat ≤ 102 := by simpa [hoe] using hdata
    obtain ⟨hlow, hhigh⟩ := hupc
    have hwren' : s.o.wren = true := hwren.trans (decide_eq_true (by omega))
    exact ⟨rfl, hlow, hhigh, (driven_eq_some_true_iff s .wren).mpr ⟨by simp [hoe], hwren'⟩⟩
  | receive =>
    obtain ⟨-, -, hoe, -⟩ := h
    simp [hoe] at hdata
  | stereo =>
    obtain ⟨-, -, hoe, -⟩ := h
    simp [hoe] at hdata
  | none => exact h.elim

/-- Settles O42: an idle block does not drive `DATA`, and of the running lists only a transmit does. -/
theorem dataIsDrivenOnlyInWriteMode : Obligations.DataIsDrivenOnlyInWriteMode := by
  intro s hinv hdata
  obtain ⟨hidle, hbusy⟩ := (sequencerInv_iff s).mp hinv
  cases hb : s.busy with
  | false => simp [(hidle hb).data_undriven] at hdata
  | true =>
    obtain ⟨hkind, hlow, hhigh, hdriven⟩ := (hbusy hb).data_driven hdata
    obtain ⟨-, hwren⟩ := (driven_eq_some_true_iff s .wren).mp hdriven
    exact ⟨rfl, hwren, hdriven, hkind, hlow, hhigh⟩

/-- Of the lists of a configured block only a transmit, with 1 to 104 of its actions done, and a receive, between its actions 1
and 3, have `WREN` high. -/
theorem KindPins.wren_high {k : ListKind} {s : State} (h : KindPins k s) (hconf : s.configured = true)
    (hwren : s.o.wren = true) :
    (k = .transmit ∧ 1 ≤ s.upc.toNat ∧ s.upc.toNat ≤ 104) ∨ (k = .receive ∧ (s.upc.toNat = 2 ∨ s.upc.toNat = 3)) := by
  cases k with
  | init =>
    obtain ⟨-, -, -, -, -, -, -, hidle⟩ := h
    obtain ⟨-, -, -, hlow⟩ := hidle hconf
    simp [hlow] at hwren
  | transmit =>
    obtain ⟨-, hupc, -, hlatch, -⟩ := h
    exact .inl ⟨rfl, of_decide_eq_true (hlatch.symm.trans hwren), hupc⟩
  | receive =>
    obtain ⟨-, -, -, -, hlatch, -⟩ := h
    exact .inr ⟨rfl, of_decide_eq_true (hlatch.symm.trans hwren)⟩
  | stereo =>
    obtain ⟨-, -, -, -, -, hlow⟩ := h
    simp [hlow] at hwren
  | none => exact h.elim

/-- Settles O43: the pins of an idle configured block are `IDLE_PINS`, with `WREN` low; a running list is one of
`KindPins.wren_high`. -/
theorem wrenIsHighOnlyInTransfers : Obligations.WrenIsHighOnlyInTransfers := by
  intro s hinv hconf hdriven
  obtain ⟨hidle, hbusy⟩ := (sequencerInv_iff s).mp hinv
  obtain ⟨-, hwren⟩ := (driven_eq_some_true_iff s .wren).mp hdriven
  rw [PinBits.get_wren] at hwren
  cases hb : s.busy with
  | false =>
    obtain ⟨hpins, -⟩ := hidle hb
    obtain ⟨-, -, -, hlow⟩ := hpins hconf
    simp [hlow] at hwren
  | true => exact ⟨rfl, (hbusy hb).wren_high hconf hwren⟩

end Sys2Proof.Machine

/-! # Encodings (30_encoding.md): the decoder inverts the encoder, the shapes of a control word, the packed words

Three facts carry the proofs. A field is read back from the word it was put into (the lemmas on `cmdWord`, `presetPayload`,
`searchPayload`, `controlWord`, `statusWord`), so every format is decoded by its fields (`decodeCw25_controlWord`). The packer
works field by field: its OR is one (`controlWord_or`), and its addition stays inside field `P` when that field of the base word
is empty (`ofNat_append_zero_add`). A transfer of a word, by whatever command, is one plan with one end state
(`runPlan_transmit`, `runPlan_receive`). -/

namespace Sys2Proof

/-! ### A field is read back from the word it was put into (R51, R58, R59) -/

@[simp] theorem cmdWord_op (op : BitVec 3) (x : BitVec 25) : (cmdWord op x).extractLsb' 25 3 = op := extract_high op x

/-- A field of a command word below `OP` is one of its payload. -/
theorem cmdWord_payloadField (op : BitVec 3) (x : BitVec 25) (k n : Nat) (h : k + n ≤ 25) :
    (cmdWord op x).extractLsb' k n = x.extractLsb' k n := extract_low op x k n h

@[simp] theorem cmdWord_payload (op : BitVec 3) (x : BitVec 25) : (cmdWord op x).extractLsb' 0 25 = x :=
  (cmdWord_payloadField op x 0 25 (le_refl 25)).trans (extract_all x)

section
variable (x : BitVec 7) (band : Band) (freq : BitVec 16)

@[simp] theorem presetPayload_ignored : (presetPayload x band freq).extractLsb' 18 7 = x :=
  extract_eq fun i hi => by grind [presetPayload_getLsbD]

@[simp] theorem presetPayload_band : (presetPayload x band freq).extractLsb' 16 2 = codeOfBand band :=
  extract_eq fun i hi => by grind [presetPayload_getLsbD]

@[simp] theorem presetPayload_freq : (presetPayload x band freq).extractLsb' 0 16 = freq :=
  extract_eq fun i hi => by grind [presetPayload_getLsbD]

end

section
variable (x : BitVec 18) (dir : Direction) (level : Level) (band : Band)

@[simp] theorem searchPayload_ignored : (searchPayload x dir level band).extractLsb' 7 18 = x :=
  extract_eq fun i hi => by grind [searchPayload_getLsbD]

@[simp] theorem searchPayload_dir : (searchPayload x dir level band).extractLsb' 5 2 = codeOfDirection dir :=
  extract_eq fun i hi => by grind [searchPayload_getLsbD]

@[simp] theorem searchPayload_level : (searchPayload x dir level band).extractLsb' 2 3 = codeOfLevel level :=
  extract_eq fun i hi => by grind [searchPayload_getLsbD]

@[simp] theorem searchPayload_band : (searchPayload x dir level band).extractLsb' 0 2 = codeOfBand band :=
  extract_eq fun i hi => by grind [searchPayload_getLsbD]

end

section
variable (s d b : BitVec 1) (l : BitVec 2) (c : BitVec 3) (p : BitVec 17)

/-- Bits 24:20 of a control word: everything but `C` and `P`. -/
@[simp] theorem controlWord_header : (controlWord s d b l c p).extractLsb' 20 5 = s ++ d ++ b ++ l :=
  (BitVec.extractLsb'_append_eq_of_le (by decide)).trans (extract_high (s ++ d ++ b ++ l) c)

@[simp] theorem controlWord_s : (controlWord s d b l c p).extractLsb' 24 1 = s :=
  extract_eq fun i hi => by grind [controlWord_getLsbD]

@[simp] theorem controlWord_d : (controlWord s d b l c p).extractLsb' 23 1 = d :=
  extract_eq fun i hi => by grind [controlWord_getLsbD]

@[simp] theorem controlWord_b : (controlWord s d b l c p).extractLsb' 22 1 = b :=
  extract_eq fun i hi => by grind [controlWord_getLsbD]

@[simp] theorem controlWord_l : (controlWord s d b l c p).extractLsb' 20 2 = l :=
  extract_eq fun i hi => by grind [controlWord_getLsbD]

@[simp] theorem controlWord_c : (controlWord s d b l c p).extractLsb' 17 3 = c :=
  extract_eq fun i hi => by grind [controlWord_getLsbD]

@[simp] theorem controlWord_p : (controlWord s d b l c p).extractLsb' 0 17 = p :=
  extract_eq fun i hi => by grind [controlWord_getLsbD]

end

@[simp] theorem statusWord_ignored (x : BitVec 8) (p : BitVec 17) : (statusWord x p).extractLsb' 17 8 = x := extract_high x p

@[simp] theorem statusWord_p (x : BitVec 8) (p : BitVec 17) : (statusWord x p).extractLsb' 0 17 = p :=
  (extract_low x p 0 17 (le_refl 17)).trans (extract_all p)

/-! ### The decoder of each format, by the fields of the word -/

theorem decodeCmd28_preset (x : BitVec 7) (band : Band) (freq : BitVec 16) :
    decodeCmd28 (cmdWord 3 (presetPayload x band freq)) = .preset x band freq := by
  simp [decodeCmd28, cmdWord_payloadField]

theorem decodeCmd28_search (x : BitVec 18) (dir : Direction) (level : Level) (band : Band) :
    decodeCmd28 (cmdWord 4 (searchPayload x dir level band)) = .search x dir level band := by
  simp [decodeCmd28, cmdWord_payloadField]

theorem decodeCmd28_reservedOp7 (x : BitVec 25) : decodeCmd28 (cmdWord 7 x) = .reservedOp7 x := by
  simp [decodeCmd28]

theorem decodeSw25_statusWord (x : BitVec 8) (p : BitVec 17) : decodeSw25 (statusWord x p) = .sw25Status x p := by
  simp [decodeSw25]

/-- The header of a FM preset word. -/
theorem header_eq_fm_iff (s d b : BitVec 1) (l : BitVec 2) :
    (s ++ d ++ b ++ l).toNat = 0 ↔ s = 0 ∧ d = 0 ∧ b = 0 ∧ l = 0 := by
  revert s d b l
  decide

/-- The header of an AM preset word. -/
theorem header_eq_am_iff (s d b : BitVec 1) (l : BitVec 2) :
    (s ++ d ++ b ++ l).toNat = 4 ↔ s = 0 ∧ d = 0 ∧ b = 1 ∧ l = 0 := by
  revert s d b l
  decide

/-- The decoder of control words, by the fields of the word (R51, R66): `S` clear is a preset word if `D` and `L` are clear,
`S` set is a search word if `P` is. -/
theorem decodeCw25_controlWord (s d b : BitVec 1) (l : BitVec 2) (c : BitVec 3) (p : BitVec 17) :
    decodeCw25 (controlWord s d b l c p) =
      if s = 0 then
        if d = 0 ∧ l = 0 then .ok (if b = 0 then .cw25PresetFm c p else .cw25PresetAm c p)
        else .error .noControlWordShape
      else if p = 0 then .ok (.cw25Search d b l c) else .error .noControlWordShape := by
  unfold decodeCw25
  simp only [controlWord_header, controlWord_s, controlWord_d, controlWord_b, controlWord_l, controlWord_c, controlWord_p]
  split
  · obtain ⟨rfl, rfl, rfl, rfl⟩ := (header_eq_fm_iff s d b l).mp ‹_›
    rfl
  · obtain ⟨rfl, rfl, rfl, rfl⟩ := (header_eq_am_iff s d b l).mp ‹_›
    rfl
  · rename_i hfm ham
    obtain rfl | rfl := BitVec.eq_zero_or_eq_one s
    · have hdl : ¬ (d = 0 ∧ l = 0) := by
        rintro ⟨rfl, rfl⟩
        obtain rfl | rfl := BitVec.eq_zero_or_eq_one b
        · exact hfm rfl
        · exact ham rfl
      simpa using hdl
    · simp

/-- Settles O1, format by format: the decoder cuts the fields out that the encoder put in. -/
theorem decodeInvertsEncode : Obligations.DecodeInvertsEncode := by
  intro i
  cases i with
  | preset x band freq => exact congrArg Except.ok (decodeCmd28_preset x band freq)
  | search x dir level band => exact congrArg Except.ok (decodeCmd28_search x dir level band)
  | cw25PresetFm c p => exact decodeCw25_controlWord 0 0 0 0 c p
  | cw25PresetAm c p => exact decodeCw25_controlWord 0 0 1 0 c p
  | cw25Search d b l c => exact decodeCw25_controlWord 1 d b l c 0
  | sw25Status x p => exact congrArg Except.ok (decodeSw25_statusWord x p)
  | _ => simp [encode, decode, decodeCmd28]

/-- Settles O3: each word is the encoded word of its instruction, so the decoder reads it back (`decodeInvertsEncode`). -/
theorem specWordsDecode : Obligations.SpecWordsDecode :=
  ⟨decodeInvertsEncode (.init 0x1FFFFFF), decodeInvertsEncode (.write 0x1555555),
    decodeInvertsEncode (.preset 0x7F .fm 999), decodeInvertsEncode (.search 0 .up .l3 .am),
    decodeInvertsEncode (.search 0 .outside3 .outside7 .outside3), decodeInvertsEncode (.getpll 0),
    decodeInvertsEncode (.reservedOp7 0), decodeInvertsEncode (.cw25PresetFm 5 8848),
    decodeInvertsEncode (.cw25Search 1 1 2 5), decodeInvertsEncode (.sw25Status 0xFF 8848)⟩

/-- A field of one bit. -/
theorem extract_bit_eq_zero_iff {n : Nat} (w : BitVec n) (k : Nat) : w.extractLsb' k 1 = 0 ↔ w.getLsbD k = false := by
  have hbit : (w.extractLsb' k 1).getLsbD 0 = w.getLsbD k := by simp
  rw [← hbit]
  generalize w.extractLsb' k 1 = b
  revert b
  decide

/-- Settles O4: a word is the control word of its fields, and `decodeCw25_controlWord` says which of them are rejected. -/
theorem controlWordShapes : Obligations.ControlWordShapes := by
  intro w
  have hdecode := decodeCw25_controlWord (w.extractLsb' 24 1) (w.extractLsb' 23 1) (w.extractLsb' 22 1) (w.extractLsb' 20 2)
    (w.extractLsb' 17 3) (w.extractLsb' 0 17)
  rw [controlWord_fields] at hdecode
  simp only [extract_bit_eq_zero_iff] at hdecode
  rw [hdecode]
  cases w.getLsbD 24 <;> cases w.getLsbD 23 <;> simp

end Sys2Proof

namespace Sys2Proof.Machine

open Sys2Proof Sys2Proof.Safety

/-! ### The fields of a packed word (R52 to R57, R90, R92) -/

/-- The OR of two control words is the OR of each field. -/
theorem controlWord_or (s d b s' d' b' : BitVec 1) (l l' : BitVec 2) (c c' : BitVec 3) (p p' : BitVec 17) :
    controlWord s d b l c p ||| controlWord s' d' b' l' c' p' =
      controlWord (s ||| s') (d ||| d') (b ||| b') (l ||| l') (c ||| c') (p ||| p') := by
  refine BitVec.or_append.trans (congrArg (· ++ (p ||| p')) ?_)
  refine BitVec.or_append.trans (congrArg (· ++ (c ||| c')) ?_)
  refine BitVec.or_append.trans (congrArg (· ++ (l ||| l')) ?_)
  exact BitVec.or_append.trans (congrArg (· ++ (b ||| b')) BitVec.or_append)

theorem searchBit_eq : searchBit = controlWord 1 0 0 0 0 0 := by decide

theorem amBit_eq : amBit = controlWord 0 0 1 0 0 0 := by decide

theorem searchBandBits_eq (band : Band) :
    searchBandBits band = controlWord 0 0 (BitVec.ofBool (decide (band = .am))) 0 0 0 := by
  cases band <;> decide

theorem levelBits_eq (t : LevelTable) (level : Level) : levelBits t level = controlWord 0 0 0 (levelCode t level) 0 0 := by
  unfold levelBits
  generalize levelCode t level = l
  revert l
  decide

theorem directionBits_eq (dir : Direction) :
    directionBits dir = controlWord 0 (BitVec.ofBool (decide (dir = .up))) 0 0 0 0 := by
  cases dir <;> decide

/-- A nominal mask is its field `C` (R56). -/
theorem nominal_eq_controlWord {mask : Word25} (h : Nominal mask) :
    mask = controlWord 0 0 0 0 (mask.extractLsb' 17 3) 0 := by
  calc mask
      = mask &&& (0x00E0000#25 ||| ~~~0x00E0000#25) := by
        rw [show 0x00E0000#25 ||| ~~~0x00E0000#25 = BitVec.allOnes 25 by decide, BitVec.and_allOnes]
    _ = mask &&& 0x00E0000#25 := by
        rw [BitVec.and_or_distrib_left, h]
        exact BitVec.or_zero
    _ = controlWord 0 0 0 0 (mask.extractLsb' 17 3) 0 := by
        rw [show 0x00E0000#25 = controlWord 0 0 0 0 (BitVec.allOnes 3) 0 by decide]
        conv_lhs => rw [← controlWord_fields mask]
        rw [Laws.TableRow.controlWord_and, BitVec.and_allOnes]
        simp

/-- Settles O26: each term of the packer's OR is the control word of one field, the nominal mask that of `C`. -/
theorem searchWordFields : Obligations.SearchWordFields := by
  intro t mask band level dir hmask
  rw [packSearch, searchBit_eq, nominal_eq_controlWord hmask, searchBandBits_eq, levelBits_eq, directionBits_eq]
  simp [controlWord_or]

/-- A sum that stays below an empty low field puts the summand into that field: no carry (R94). -/
theorem ofNat_append_zero_add {a b n : Nat} (x : BitVec a) (h : n < 2 ^ b) :
    BitVec.ofNat (a + b) ((x ++ 0#b).toNat + n) = x ++ BitVec.ofNat b n := by
  have hsum : (x ++ 0#b).toNat + n = (x ++ BitVec.ofNat b n).toNat := by
    rw [BitVec.toNat_append, BitVec.toNat_append, BitVec.toNat_ofNat n b, Nat.mod_eq_of_lt h,
      ← Nat.shiftLeft_add_eq_or_of_lt h]
    simp
  rw [hsum, BitVec.ofNat_toNat, BitVec.setWidth_eq]

theorem ofNat_controlWord_add (s d b : BitVec 1) (l : BitVec 2) (c : BitVec 3) {n : Nat} (h : n < 2 ^ 17) :
    BitVec.ofNat 25 ((controlWord s d b l c 0).toNat + n) = controlWord s d b l c (BitVec.ofNat 17 n) :=
  ofNat_append_zero_add (s ++ d ++ b ++ l ++ c) h

/-- Under a nominal mask a FM divider of 17 bits is field `P` of the packed word, the mask its field `C`. -/
theorem packPreset_fm_of_nominal {mask : Word25} {f : BitVec 16} (hmask : Nominal mask) (h : divFm f < 2 ^ 17) :
    packPreset mask f .fm = some (controlWord 0 0 0 0 (mask.extractLsb' 17 3) (BitVec.ofNat 17 (divFm f))) := by
  have hbase : fmBits ||| mask = controlWord 0 0 0 0 (mask.extractLsb' 17 3) 0 :=
    BitVec.zero_or.trans (nominal_eq_controlWord hmask)
  rw [packPreset, hbase, ofNat_controlWord_add _ _ _ _ _ h]

/-- The same of an AM divider, with the band bit. -/
theorem packPreset_am_of_nominal {mask : Word25} {f : BitVec 16} (hmask : Nominal mask) (h : divAm f < 2 ^ 17) :
    packPreset mask f .am = some (controlWord 0 0 1 0 (mask.extractLsb' 17 3) (BitVec.ofNat 17 (divAm f))) := by
  have hbase : amBit ||| mask = controlWord 0 0 1 0 (mask.extractLsb' 17 3) 0 := by
    rw [amBit_eq, nominal_eq_controlWord hmask, controlWord_or]
    simp
  rw [packPreset, hbase, ofNat_controlWord_add _ _ _ _ _ h]

/-- A FM divider of 17 bits is one of the preset words' (R62). -/
theorem isFmDivider_divFm {f : BitVec 16} (h : divFm f < 2 ^ 17) : isFmDivider (BitVec.ofNat 17 (divFm f)) = true := by
  have hmin : 856 ≤ divFm f := by unfold divFm; omega
  have hmod : divFm f % 8 = 0 := Nat.mul_mod_left _ 8
  have hnat : (BitVec.ofNat 17 (divFm f)).toNat = divFm f := by rw [BitVec.toNat_ofNat, Nat.mod_eq_of_lt h]
  rw [isFmDivider, hnat, hmod, decide_eq_true hmin]
  rfl

/-- An AM divider of 17 bits is one of the preset words' (R62). -/
theorem isAmDivider_divAm {f : BitVec 16} (h : divAm f < 2 ^ 17) : isAmDivider (BitVec.ofNat 17 (divAm f)) = true := by
  have hmin : 450 ≤ divAm f := by unfold divAm; omega
  have hmod : divAm f % 10 = 0 := Nat.mul_mod_left _ 10
  have hnat : (BitVec.ofNat 17 (divAm f)).toNat = divAm f := by rw [BitVec.toNat_ofNat, Nat.mod_eq_of_lt h]
  rw [isAmDivider, hnat, hmod, decide_eq_true hmin]
  rfl

/-- Settles O27: the packed word is a control word with known fields, and `decodeCw25_controlWord` reads it. -/
theorem packedWordsAreTableWords : Obligations.PackedWordsAreTableWords := by
  intro t mask f w hmask
  refine ⟨fun _ hmax hw => ?_, fun _ hmax hw => ?_, fun band level dir => ?_⟩
  · have hdiv : divFm f < 2 ^ 17 := by unfold divFm; omega
    cases (packPreset_fm_of_nominal hmask hdiv).symm.trans hw
    exact ⟨_, decodeCw25_controlWord 0 0 0 0 _ _, rfl, isFmDivider_divFm hdiv⟩
  · have hdiv : divAm f < 2 ^ 17 := by unfold divAm; omega
    cases (packPreset_am_of_nominal hmask hdiv).symm.trans hw
    exact ⟨_, decodeCw25_controlWord 0 0 1 0 _ _, rfl, isAmDivider_divAm hdiv⟩
  · rw [searchWordFields t mask band level dir hmask]
    exact ⟨_, _, _, decodeCw25_controlWord 1 _ _ _ _ 0⟩

/-- Settles O18: the six level tables are the six permutations of the three codes. -/
theorem levelCodesAreDistinct : Obligations.LevelCodesAreDistinct := by
  intro t
  cases t <;> decide

/-! ### Transfers of a word (R58, R65, R66, R80, R82) -/

/-- The transfer of a control word from a ready block, as each of the three rows asks for it. -/
theorem whenReady_transmit {s : State} (w : Word25) (h : Ready s) :
    whenReady s (runPlan (planTransmit w)) = .next (transmitted w s) :=
  (whenReady_of_ready _ h).trans (congrArg _ (runPlan_transmit w s))

/-- Settles O19: each of the three rows is the plan that transmits its word. -/
theorem controlWordsAreTransmitted : Obligations.ControlWordsAreTransmitted := fun d b l c p _ hready =>
  ⟨whenReady_transmit (controlWord 0 0 0 0 c p) hready, whenReady_transmit (controlWord 0 0 1 0 c p) hready,
    whenReady_transmit (controlWord 1 d b l c 0) hready⟩

/-- The receive of a word: the samples are its bits, and the environment is as before. -/
theorem receiveWord_eq (w : Word25) {s : State} (h : s.oe.data = false) :
    receiveWord w s =
      { s with
        sr := w, upc := 101, busy := false
        o := { s.o with clk := false, wren := false }
        trace := s.trace ++ rxTrace (bitsOfWord w) } := by
  have hanswers := answers_bitsOfWord w (e := { s.env with dataIn := bitsOfWord w }) rfl
  have hrun := runPlan_receive .nothing (s.setEnv { s.env with dataIn := bitsOfWord w }) h
  unfold receiveWord planReceive
  rw [hrun, received_eq, State.setEnv_env, hanswers, wordOfBits_bitsOfWord]
  rfl

/-- Settles O20, by `receiveWord_eq`. -/
theorem statusWordIsReceived : Obligations.StatusWordIsReceived := fun x p _ hready hoe =>
  (whenReady_of_ready _ hready).trans (congrArg _ (receiveWord_eq (statusWord x p) hoe))

theorem exec_preset_of_ready {s : State} (x : BitVec 7) {band : Band} {f : BitVec 16} {w : Word25} (h : Ready s)
    (hw : packPreset s.params.configMask f band = some w) :
    exec (.preset x band f) s = .next (transmitted w (s.setCmdl (cmdWord 3 (presetPayload x band f)))) := by
  have hplan : planPreset s.params band f = planTransmit w := by rw [planPreset, hw]
  rw [← runPlan_transmit, ← hplan]
  exact whenReady_of_ready _ h

theorem exec_search_of_ready {s : State} (x : BitVec 18) (dir : Direction) (level : Level) (band : Band) (h : Ready s) :
    exec (.search x dir level band) s =
      .next (transmitted (packSearch s.params.levels s.params.configMask band level dir)
        (s.setCmdl (cmdWord 4 (searchPayload x dir level band)))) :=
  (whenReady_of_ready _ h).trans (congrArg _ (runPlan_transmit _ _))

theorem exec_getpll_of_ready {s : State} (x : BitVec 25) (h : Ready s) (hoe : s.oe.data = false) :
    exec (.getpll x) s = .next ((runFinal .resFromSrMasked (received (s.setCmdl (cmdWord 5 x)))).setBusy false) :=
  (whenReady_of_ready _ h).trans (congrArg _ (runPlan_receive .resFromSrMasked _ hoe))

/-- Two transmits of one word differ in the latched command word only. -/
theorem transmitted_latch (w : Word25) (s : State) (c c' : CmdWord) :
    transmitted w (s.setCmdl c) = { transmitted w (s.setCmdl c') with cmdl := c } := by
  rw [transmitted_setCmdl, transmitted_setCmdl]
  rfl

/-- A transmit is its action list and the end of the command. -/
theorem transmitted_eq_runActions (w : Word25) (s : State) (c : CmdWord) :
    transmitted w (s.setCmdl c) =
      { runActions tx25 { s with sr := w } with cmdl := c, upc := 104, busy := false } := by
  rw [runActions_tx25]
  rfl

/-- A receive is its action list and the end of the command. -/
theorem received_eq_runActions {s : State} (h : s.oe.data = false) :
    received s = { runActions rx25 s with upc := 101, busy := false } := by
  rw [runActions_rx25 s h, received_eq]

/-- The end of `READ`, for any state `r` its list ends in. -/
theorem finish_read (r : State) (c : CmdWord) :
    (runFinal .resFromSr (r.setCmdl c)).setBusy false = { r with cmdl := c, busy := false, res := r.sr } := rfl

/-- The end of `GETPLL`, for any state `r` its list ends in. -/
theorem finish_getpll (r : State) (c : CmdWord) :
    (runFinal .resFromSrMasked (r.setCmdl c)).setBusy false =
      { r with cmdl := c, busy := false, res := r.sr &&& 0x1FFFF#25 } := rfl

/-- Settles O31: the end states of the commands, compared with each other and with the action lists. -/
theorem commandsAreTheirExpansions : Obligations.CommandsAreTheirExpansions := by
  intro s hready hoe
  refine ⟨fun x band f w hw => ?_, fun x dir level band => ?_, fun x y => ?_, fun v => ?_, fun y => ?_⟩
  · exact ⟨_, _, exec_preset_of_ready x hready hw, exec_write_of_ready w hready, transmitted_latch w s _ _⟩
  · exact ⟨_, _, exec_search_of_ready x dir level band hready, exec_write_of_ready _ hready, transmitted_latch _ s _ _⟩
  · refine ⟨_, _, exec_getpll_of_ready x hready hoe, exec_read_of_ready y hready hoe, ?_⟩
    rw [received_setCmdl, received_setCmdl, finish_getpll, finish_read]
  · refine ⟨_, _, exec_write_of_ready v hready, rfl, ?_⟩
    rw [transmitted_eq_runActions]
  · refine ⟨_, _, exec_read_of_ready y hready hoe, rfl, ?_⟩
    rw [received_setCmdl, finish_read, received_eq_runActions hoe]

/-! ### The reserved operation (R63, R114) -/

/-- With a command presented and nothing running, a single step is its accept (R14, R15). -/
theorem step_presented_single {s : State} (hr : s.port.rst = false) (hb : s.busy = false) (hv : s.port.cmdValid = true)
    (hp : s.pace = .single) : step s = acceptStep s := by
  simp [step, hr, hb, hv, hp]

/-- Settles O21: the port's word decodes to the reserved instruction, which both granularities refuse. -/
theorem reservedOpIsRefused : Obligations.ReservedOpIsRefused := by
  intro x s
  refine ⟨rfl, fun hr hb hv hcmd => ?_⟩
  have hpresented : presentedCommand s = .reservedOp7 x := by
    rw [presentedCommand, hcmd, decodeCmd28_reservedOp7]
  cases hp : s.pace with
  | whole =>
    rw [step_presented hr hb hv hp, hpresented]
    rfl
  | single =>
    rw [step_presented_single hr hb hv hp, acceptStep_reserved hpresented]

end Sys2Proof.Machine

/-! # INIT and the clock pulse (40_init_clock.md): the pulse as a unit of the longer lists -/

namespace Sys2Proof.Machine

open Sys2Proof Sys2Proof.Safety

/-- Settles O7: the law of the pulse, `runActions_clkPulse`, with the trace it names written out. -/
theorem clkPulseRaisesWaitsAndLowers : Obligations.ClkPulseRaisesWaitsAndLowers := by
  intro s
  rw [runActions_clkPulse, pulseTrace]

end Sys2Proof.Machine

/-! # Transfers (41_transfer.md): the end states of `WRITE`, `READ` and `GETPLL`

The transfers of a ready block are known (`exec_write_of_ready`, `exec_read_of_ready`, `exec_getpll_of_ready`). What is added
here is the end state of a receive written out for the answers it takes (`received_of_answers`), and what the mask of `GETPLL`
keeps (`and_statusMask`). -/

namespace Sys2Proof.Machine

open Sys2Proof Sys2Proof.Safety

/-- Settles O9: the encoded word decodes to its instruction (`decodeInvertsEncode`), and the transmit runs from the state with
the command word latched. -/
theorem writeTransmitsItsOperand : Obligations.WriteTransmitsItsOperand := fun v _ hready =>
  ⟨decodeInvertsEncode (.write v), exec_write_of_ready v hready⟩

/-- The end state of a receive, for the answers the environment gives (R82). -/
theorem received_of_answers {s : State} {bits : List Bool} {e : Env} (h : s.env.answers .data 25 = (bits, e)) :
    received s =
      { s with
        sr := wordOfBits bits, upc := 101, busy := false
        o := { s.o with clk := false, wren := false }
        env := e
        trace := s.trace ++ rxTrace bits } := by
  rw [received_eq, h]

/-- Settles O10: the receive, then `RES <- SR`. -/
theorem readReturnsTheSampledWord : Obligations.ReadReturnsTheSampledWord := by
  intro x s bits e hready hoe hanswers
  rw [exec_read_of_ready x hready hoe, received_setCmdl, finish_read, received_of_answers hanswers]

/-- `STATUS_MASK` has 17 ones (R4, conflict C1), so it keeps the low 17 bits. -/
theorem and_statusMask (w : Word25) : w &&& statusMask = (w.extractLsb' 0 17).setWidth 25 := by
  apply BitVec.eq_of_toNat_eq
  calc (w &&& statusMask).toNat
      = w.toNat &&& (2 ^ 17 - 1) := BitVec.toNat_and w statusMask
    _ = w.toNat % 2 ^ 17 := Nat.and_two_pow_sub_one_eq_mod w.toNat 17
    _ = ((w.extractLsb' 0 17).setWidth 25).toNat := by
      rw [BitVec.toNat_setWidth_of_le (by decide), BitVec.extractLsb'_toNat, Nat.shiftRight_zero]

/-- Settles O12: the receive, then `RES <- SR & STATUS_MASK`. -/
theorem getpllReturnsTheLow17Bits : Obligations.GetpllReturnsTheLow17Bits := by
  intro x s bits e hready hoe hanswers
  have hmask : wordOfBits bits &&& 0x1FFFF#25 = ((wordOfBits bits).extractLsb' 0 17).setWidth 25 := and_statusMask _
  rw [exec_getpll_of_ready x hready hoe, received_setCmdl, finish_getpll, received_of_answers hanswers, hmask]

end Sys2Proof.Machine

/-! # The packer (42_packer.md): the words of `PRESET` and `SEARCH`, their mask and their divider

A ready block transmits what the packer answers (`exec_preset_of_ready`, `exec_search_of_ready`), so the first two statements are
the packer's equations. For the other two: below 2^17 the divider meets an empty low field of the base word, so the addition is a
concatenation (`packPreset_fm_fields`, `packPreset_am_fields`) and leaves the mask in the high field. -/

namespace Sys2Proof.Machine

open Sys2Proof Sys2Proof.Safety

/-! ### The packer's equations (R90, R92) -/

theorem packPreset_fm (mask : Word25) (f : BitVec 16) :
    packPreset mask f .fm = some (BitVec.ofNat 25 (mask.toNat + divFm f)) := by
  rw [packPreset, show fmBits ||| mask = mask from BitVec.zero_or]

theorem packPreset_am (mask : Word25) (f : BitVec 16) :
    packPreset mask f .am = some (BitVec.ofNat 25 ((amBit ||| mask).toNat + divAm f)) := rfl

theorem searchBandBits_eq_ite (band : Band) : searchBandBits band = if band = .am then amBit else 0 := by
  cases band <;> rfl

theorem directionBits_eq_ite (dir : Direction) : directionBits dir = if dir = .up then dirBit else 0 := by
  cases dir <;> rfl

/-- Level 1 and every level outside the enumeration (R55, R63). -/
theorem levelCode_eq_zero (t : LevelTable) {level : Level} (h : level ∉ [Level.l2, Level.l3, Level.l4]) :
    levelCode t level = 0 := by
  cases level with
  | l2 | l3 | l4 => simp at h
  | _ => cases t <;> rfl

/-- Settles O14: a valid band has a packed word, and a ready block transmits it. -/
theorem presetTransmitsThePackedWord : Obligations.PresetTransmitsThePackedWord := fun x f s hready =>
  ⟨exec_preset_of_ready x hready (packPreset_fm s.params.configMask f),
    exec_preset_of_ready x hready (packPreset_am s.params.configMask f)⟩

/-- Settles O16: the packer's OR, with its band and direction terms as conditions on the operands. -/
theorem searchTransmitsThePackedWord : Obligations.SearchTransmitsThePackedWord := by
  intro x dir level band s hready
  refine ⟨?_, levelCode_eq_zero s.params.levels⟩
  rw [exec_search_of_ready x dir level band hready, packSearch, searchBandBits_eq_ite, directionBits_eq_ite]
  rfl

/-! ### Without a carry (R94) -/

/-- A word with an empty low field is its high field before 17 zeros. -/
theorem append_zero_of_low_clear {w : Word25} (h : w.extractLsb' 0 17 = 0) : w.extractLsb' 17 8 ++ 0#17 = w :=
  (congrArg (w.extractLsb' 17 8 ++ ·) h.symm).trans (extract_append (a := 8) (b := 17) w)

/-- A divider of 17 bits goes into an empty low field: the addition carries nothing into bits 24:17. -/
theorem ofNat_add_of_low_clear {base : Word25} {n : Nat} (hbase : base.extractLsb' 0 17 = 0) (hn : n < 2 ^ 17) :
    BitVec.ofNat 25 (base.toNat + n) = base.extractLsb' 17 8 ++ BitVec.ofNat 17 n := by
  conv_lhs => rw [← append_zero_of_low_clear hbase]
  exact ofNat_append_zero_add (base.extractLsb' 17 8) hn

theorem packPreset_fm_fields {mask : Word25} {f : BitVec 16} (hmask : mask.extractLsb' 0 17 = 0) (hf : f.toNat ≤ 1080) :
    packPreset mask f .fm = some (mask.extractLsb' 17 8 ++ BitVec.ofNat 17 (divFm f)) := by
  have hdiv : divFm f < 2 ^ 17 := by unfold divFm; omega
  rw [packPreset_fm, ofNat_add_of_low_clear hmask hdiv]

theorem packPreset_am_fields {mask : Word25} {f : BitVec 16} (hmask : mask.extractLsb' 0 17 = 0) (hf : f.toNat ≤ 170) :
    packPreset mask f .am = some ((mask ||| amBit).extractLsb' 17 8 ++ BitVec.ofNat 17 (divAm f)) := by
  have hdiv : divAm f < 2 ^ 17 := by unfold divAm; omega
  have hbase : (mask ||| amBit).extractLsb' 0 17 = 0 := by
    rw [BitVec.extractLsb'_or, hmask]
    decide
  rw [packPreset_am, BitVec.or_comm, ofNat_add_of_low_clear hbase hdiv]

/-- Settles O24: the divider of a frequency in range has 17 bits. -/
theorem inRangePresetWordFields : Obligations.InRangePresetWordFields := fun _ _ hmask =>
  ⟨fun _ hmax => packPreset_fm_fields hmask hmax, fun _ hmax => packPreset_am_fields hmask hmax⟩

/-! ### The mask is in the word (R95) -/

/-- An OR contains its first term. -/
theorem or_and_self_left {n : Nat} (m b : BitVec n) : (m ||| b) &&& m = m := by
  ext i hi
  rw [BitVec.getElem_and, BitVec.getElem_or]
  cases m[i]
  · exact Bool.and_false _
  · rfl

theorem packSearch_and_mask (t : LevelTable) (mask : Word25) (band : Band) (level : Level) (dir : Direction) :
    packSearch t mask band level dir &&& mask = mask := by
  rw [packSearch, BitVec.or_comm searchBit mask]
  simp only [BitVec.or_assoc, or_and_self_left]

/-- A mask with an empty low field that is in the base word is in every word with the base word's high field. -/
theorem append_and_mask {base mask : Word25} (hmask : mask.extractLsb' 0 17 = 0) (hbase : base &&& mask = mask)
    (p : BitVec 17) : (base.extractLsb' 17 8 ++ p) &&& mask = mask := by
  have hhigh : base.extractLsb' 17 8 &&& mask.extractLsb' 17 8 = mask.extractLsb' 17 8 := by
    rw [← BitVec.extractLsb'_and, hbase]
  calc (base.extractLsb' 17 8 ++ p) &&& mask
      = (base.extractLsb' 17 8 ++ p) &&& (mask.extractLsb' 17 8 ++ 0#17) := by rw [append_zero_of_low_clear hmask]
    _ = (base.extractLsb' 17 8 &&& mask.extractLsb' 17 8) ++ (p &&& 0#17) := BitVec.and_append
    _ = mask.extractLsb' 17 8 ++ 0#17 := by rw [hhigh, BitVec.and_zero]
    _ = mask := append_zero_of_low_clear hmask

/-- Settles O25: the mask is a term of the OR, and the divider stays below it. -/
theorem maskIsInEveryPackedWord : Obligations.MaskIsInEveryPackedWord := by
  refine ⟨packSearch_and_mask, fun mask f w hmask => ⟨fun _ hmax hw => ?_, fun _ hmax hw => ?_⟩⟩
  · cases (packPreset_fm_fields hmask hmax).symm.trans hw
    exact append_and_mask hmask BitVec.and_self _
  · cases (packPreset_am_fields hmask hmax).symm.trans hw
    exact append_and_mask hmask (or_and_self_left mask amBit) _

end Sys2Proof.Machine

/-! # The stereo query (43_query.md): one sample of `MOST` and its inverse in `RES` -/

namespace Sys2Proof.Machine

open Sys2Proof Sys2Proof.Safety

/-- The one action of `ISSTEREO` (R101), when the block does not drive `MOST`. -/
theorem runAction_rdMost {s : State} {b : Bool} {e : Env} (hoe : s.oe.most = false) (ha : s.env.answer .most = (b, e)) :
    runAction (plain .rdMost) s =
      { s with res := (BitVec.ofBool (!b)).setWidth 25, env := e, trace := s.trace ++ [.rd .most b] } :=
  congrArg (fun a : Bool × State => a.2.setRes ((BitVec.ofBool (!a.1)).setWidth 25))
    (pinRd_undriven (p := .most) hoe ha)

/-- `ISSTEREO` as a plan: its action, with `UPC` at the only index and `BUSY` clear (R14). -/
theorem runPlan_isstereo (s : State) :
    runPlan planIsstereo s = { runAction (plain .rdMost) (startPlan planIsstereo s) with upc := 0, busy := false } := rfl

theorem setWidth_ofBool_not (b : Bool) :
    (BitVec.ofBool (!b)).setWidth 25 = if b then 0x0000000#25 else 0x0000001#25 := by
  cases b <;> rfl

/-- Settles O13: the encoded word decodes to its instruction (`decodeInvertsEncode`), and the plan of a ready block is one
sample of `MOST`. -/
theorem isstereoReturnsTheInvertedLevel : Obligations.IsstereoReturnsTheInvertedLevel := by
  intro x s b e hready hoe ha
  refine ⟨decodeInvertsEncode (.isstereo x), (whenReady_of_ready _ hready).trans (congrArg _ ?_)⟩
  have hrun := runAction_rdMost (s := startPlan planIsstereo (s.setCmdl (cmdWord 6 x))) hoe ha
  rw [runCommand, runPlan_isstereo, hrun, setWidth_ofBool_not]
  rfl

end Sys2Proof.Machine

/-! # Operand codes outside the enumerations (60_exceptions.md R111, R112)

`PRESET` with an invalid band has the empty plan. `SEARCH` packs a default, which the packer reads off the operand's own term of
the OR (`packSearch_eq_mask_or`): the mask, and one control word with a field for each operand. -/

namespace Sys2Proof.Machine

open Sys2Proof Sys2Proof.Safety

theorem planPreset_of_no_word {params : Params} {band : Band} {f : BitVec 16}
    (h : packPreset params.configMask f band = none) : planPreset params band f = ⟨none, [], .nothing⟩ := by
  rw [planPreset, h]

/-- Settles O15: there is no packed word for the band, so the plan is empty, and running it leaves the accepted command's state. -/
theorem presetWithInvalidBandSendsNothing : Obligations.PresetWithInvalidBandSendsNothing := by
  intro x band f s hready hband
  have hword : packPreset s.params.configMask f band = none := by
    obtain rfl | rfl := hband <;> rfl
  refine (whenReady_of_ready _ hready).trans (congrArg _ ?_)
  rw [runCommand, planPreset_of_no_word hword, runPlan_empty, State.setCmdl]

/-! ### The defaults of a search word -/

/-- A search word is the mask OR'ed with one control word that holds the operands (R92). -/
theorem packSearch_eq_mask_or (t : LevelTable) (mask : Word25) (band : Band) (level : Level) (dir : Direction) :
    packSearch t mask band level dir =
      mask ||| controlWord 1 (BitVec.ofBool (decide (dir = .up))) (BitVec.ofBool (decide (band = .am)))
        (levelCode t level) 0 0 := by
  rw [packSearch, BitVec.or_comm searchBit mask, searchBit_eq, searchBandBits_eq, levelBits_eq, directionBits_eq]
  simp [BitVec.or_assoc, controlWord_or]

theorem packSearch_levelField (t : LevelTable) (mask : Word25) (band : Band) (level : Level) (dir : Direction) :
    (packSearch t mask band level dir).extractLsb' 20 2 = mask.extractLsb' 20 2 ||| levelCode t level := by
  rw [packSearch_eq_mask_or, BitVec.extractLsb'_or, controlWord_l]

theorem packSearch_directionBit (t : LevelTable) (mask : Word25) (band : Band) (level : Level) (dir : Direction) :
    (packSearch t mask band level dir).getLsbD 23 = (mask.getLsbD 23 || decide (dir = .up)) := by
  have hbit (w : Word25) : w.getLsbD 23 = (w.extractLsb' 23 1).getLsbD 0 := by simp
  rw [packSearch_eq_mask_or, BitVec.getLsbD_or, hbit (controlWord ..), controlWord_d]
  simp

/-- Every level outside the enumeration has the code of level 1. -/
theorem levelCode_outside (t : LevelTable) {level : Level} (h : level ∉ [Level.l1, Level.l2, Level.l3, Level.l4]) :
    levelCode t level = 0 :=
  levelCode_eq_zero t fun hmem => h (List.mem_cons_of_mem _ hmem)

/-- Two searches of a ready block that pack one word end alike but for the latched command word. -/
theorem exec_search_same_word {s : State} (x : BitVec 18) {dir dir' : Direction} {level level' : Level} {band band' : Band}
    (hready : Ready s)
    (hword : packSearch s.params.levels s.params.configMask band' level' dir' =
      packSearch s.params.levels s.params.configMask band level dir) (c : CmdWord) :
    ∃ u, exec (.search x dir' level' band') s = .next u ∧
      u = { transmitted (packSearch s.params.levels s.params.configMask band level dir) (s.setCmdl c) with cmdl := u.cmdl } := by
  refine ⟨_, exec_search_of_ready x dir' level' band' hready, ?_⟩
  rw [hword]
  exact transmitted_latch _ s _ c

/-- Settles O17: each operand enters the word through its own field, and an invalid code has there what the default has. -/
theorem searchDefaultsInvalidCodes : Obligations.SearchDefaultsInvalidCodes := by
  intro x dir level band s hready
  refine ⟨_, _, exec_search_of_ready x dir level band hready, rfl,
    fun hlevel => ⟨?_, ?_⟩, fun hdir => ⟨?_, ?_⟩, fun hband => ?_⟩
  · rw [packSearch_levelField, levelCode_outside _ hlevel]
    exact BitVec.or_zero
  · refine exec_search_same_word x hready ?_ _
    rw [packSearch_eq_mask_or, packSearch_eq_mask_or, levelCode_outside _ hlevel, (levelCodesAreDistinct _).1]
  · rw [packSearch_directionBit, decide_eq_false hdir, Bool.or_false]
  · refine exec_search_same_word x hready ?_ _
    rw [packSearch_eq_mask_or, packSearch_eq_mask_or, decide_eq_false hdir]
    rfl
  · refine exec_search_same_word x hready ?_ _
    rw [packSearch_eq_mask_or, packSearch_eq_mask_or, decide_eq_false hband]
    rfl

end Sys2Proof.Machine
